-- ==== Sys2Proof/Word.lean ====
section
/-! DEFINITION. The value types of the hardware: bytes, byte sequences and the four unsigned widths (00_scope.md R11). -/

namespace Sys2Proof

/-- A byte: 8 bits, the atom of every buffer (R11, R12). -/
abbrev Byte := BitVec 8

/-- `Bytes` of R11: a finite sequence of bytes, possibly empty, byte 0 first. Its length is a natural number. -/
abbrev Bytes := List Byte

abbrev U8 := BitVec 8
abbrev U16 := BitVec 16
abbrev U32 := BitVec 32
abbrev U64 := BitVec 64

end Sys2Proof
end

