-- ==== Sys2Proof/Config.lean ====
section
/-! DEFINITION. What a build fixes: the constants of 00_scope.md R8 and R9, and the open parameters of R10 as constants without a body. -/

namespace Sys2Proof.Config

/-- The only supported version byte (R8, 10_state.md R23): hardwired, an immutable constant and no state. -/
def VERSION : Byte := 1
/-- Bytes in the frame envelope, 1+1+2+4 (R8). -/
def ENV_LEN : Nat := 8
/-- Message type of a TileMessage (R8). -/
def MT_TILE : U8 := 0
/-- Message type of an ActivationMessage (R8). -/
def MT_ACT : U8 := 1
/-- Message type of a ResultMessage (R8). -/
def MT_RES : U8 := 2
/-- Largest header length the envelope can carry (R8). -/
def HLEN_MAX : Nat := 65535
/-- Largest body length the envelope can carry (R8). -/
def BLEN_MAX : Nat := 4294967295
/-- Bytes the checksum primitive returns (R8). -/
def CK_LEN : Nat := 16
/-- Bytes of Tile scalar fields, 8+8+4+4+2 (R8). -/
def TILE_SCALAR_LEN : Nat := 26
/-- Header length Tile encode emits and Tile decode accepts (R8). -/
def TILE_HDR_LEN : Nat := 34
/-- Bytes of Activation scalar fields, 8+8+8+8 (R8). -/
def ACT_SCALAR_LEN : Nat := 32
/-- "Declared header length for decode" of Activation: the scalar prefix, checksum excluded (R8, 43_activation.md R134). -/
def ACT_DECL_LEN : Nat := 32
/-- Header length Activation encode emits (R8). -/
def ACT_HDR_LEN : Nat := 48
/-- Bytes of Result scalar fields, 8+8+8+4+1 (R8). -/
def RES_SCALAR_LEN : Nat := 29
/-- Header length Result encode emits and Result decode accepts (R8). -/
def RES_HDR_LEN : Nat := 33
/-- Expert index sentinel "not applicable" (R8); moved like any value (30_encoding.md R76). -/
def EXPERT_NA : U16 := 0xFFFF
/-- Tile kind names (R8); no command compares a tile kind with them (30_encoding.md R76). -/
def TK_WEIGHT : U32 := 0
def TK_EXPERT : U32 := 1
def TK_KVAUX : U32 := 2
def TK_CODEBOOK : U32 := 3

/-- Tag bytes in a Tile header (R9; 90_conflicts.md C2). -/
def TILE_TAG_LEN : Nat := TILE_HDR_LEN - TILE_SCALAR_LEN
/-- Tag bytes in an Activation header (R9). -/
def ACT_TAG_LEN : Nat := ACT_HDR_LEN - ACT_SCALAR_LEN
/-- Tag bytes in a Result header (R9; 90_conflicts.md C4). -/
def RES_TAG_LEN : Nat := RES_HDR_LEN - RES_SCALAR_LEN
/-- Header length ACT.DEC accepts: the declared length and the uncounted tag (R9; 90_conflicts.md C3). -/
def ACT_DEC_ACCEPT : Nat := ACT_DECL_LEN + ACT_TAG_LEN
/-- The longest frame (R9). -/
def FRAME_MAX : Nat := ENV_LEN + HLEN_MAX + BLEN_MAX

/-- FREE VALUE (log 2): by how much HASH_LEN exceeds 16. -/
opaque hashExtraLen : Nat

/-- HASH_LEN of R10: some natural number, at least 16. -/
def hashLen : Nat := 16 + hashExtraLen

/-- FREE VALUE (log 2): HASH of R10, total and deterministic, every output HASH_LEN bytes long. It has no body: nothing
may be assumed of it, injectivity least of all (45_flows_and_properties.md R161). -/
opaque hash : Bytes → Vector Byte hashLen

/-- FREE VALUE (log 4): how many units a build has beside unit 0. -/
opaque extraUnits : Nat

/-- N_UNITS of R10: some natural number, at least 1. -/
def nUnits : Nat := extraUnits + 1

/-- FREE VALUE (log 6): whether the port of a busy unit lets a further command wait, by the number of commands the unit
already has; if not, the port refuses it (60_exceptions.md R188; 93_implementation_defined.md U14). -/
opaque busyPortAccepts : Nat → Bool

end Sys2Proof.Config
end

