-- ==== Sys2Proof/Syntax.lean ====
section
/-! DEFINITION. The commands and wire frames as syntax: message values, the command record, and `Instr`, one constructor per row of opcode_table.json. -/

namespace Sys2Proof

/-- A Frame as a value (10_state.md R28): message type, header bytes, body bytes. The version is always 1 and the two
lengths are those of the byte sequences, so they are not stored. Also the operands of FRAME (30_encoding.md R63). -/
structure Frame where
  mtype  : U8
  header : Bytes
  body   : Bytes
  deriving DecidableEq, Repr

/-- TileMessage (10_state.md R29); the operands of TILE.ENC in wire order. -/
structure TileMessage where
  modelId   : U64
  tileId    : U64
  tileKind  : U32
  layerIdx  : U32
  expertIdx : U16
  payload   : Bytes
  deriving DecidableEq, Repr

/-- ActivationMessage (10_state.md R30); the operands of ACT.ENC in wire order. -/
structure ActivationMessage where
  sessionId  : U64
  stepId     : U64
  fromTileId : U64
  toTileId   : U64
  payload    : Bytes
  deriving DecidableEq, Repr

/-- ResultMessage (10_state.md R31); the operands of RES.ENC in wire order (90_conflicts.md C5). -/
structure ResultMessage where
  sessionId  : U64
  stepId     : U64
  tileId     : U64
  cyclesHint : U32
  voteGroup  : U8
  payload    : Bytes
  deriving DecidableEq, Repr

/-- A message value of any of the three kinds. Its equality is R32's: same kind, same scalars, same payload. -/
inductive Message where
  | tile (m : TileMessage)
  | activation (m : ActivationMessage)
  | result (m : ResultMessage)
  deriving DecidableEq, Repr

/-- The instructions: the nine commands (30_encoding.md R62), the reserved command codes (R65) and the three wire
message types (R74). -/
inductive Instr where
  /-- CKSUM, op 0x0 (40_checksum.md R91). -/
  | cksum (data : Bytes)
  /-- FRAME, op 0x1 (41_frame.md R101). -/
  | frame (f : Frame)
  /-- DEFRAME, op 0x2 (41_frame.md R105). -/
  | deframe (buf : Bytes)
  /-- TILE.ENC, op 0x3 (42_tile.md R121). -/
  | tileEnc (m : TileMessage)
  /-- TILE.DEC, op 0x4 (42_tile.md R123). -/
  | tileDec (header body : Bytes)
  /-- ACT.ENC, op 0x5 (43_activation.md R131). -/
  | actEnc (m : ActivationMessage)
  /-- ACT.DEC, op 0x6 (43_activation.md R133). -/
  | actDec (header body : Bytes)
  /-- RES.ENC, op 0x7 (44_result.md R141). -/
  | resEnc (m : ResultMessage)
  /-- RES.DEC, op 0x8 (44_result.md R144). -/
  | resDec (header body : Bytes)
  /-- RESERVED.9, op 0x9 (30_encoding.md R65). -/
  | reserved9
  /-- RESERVED.A_B, op 0xA or 0xB (R65). -/
  | reservedAB (op : BitVec 4)
  /-- RESERVED.C_F, op 0xC to 0xF (R65). -/
  | reservedCF (op : BitVec 4)
  /-- TileMessage on the wire: envelope 01 00, its two length fields, and the bytes after the envelope (R66, R68). -/
  | tileMessage (headerLength : U16) (bodyLength : U32) (rest : Bytes)
  /-- ActivationMessage on the wire: envelope 01 01 (R66, R69). -/
  | activationMessage (headerLength : U16) (bodyLength : U32) (rest : Bytes)
  /-- ResultMessage on the wire: envelope 01 02 (R66, R70). -/
  | resultMessage (headerLength : U16) (bodyLength : U32) (rest : Bytes)
  deriving DecidableEq, Repr

/-- The row of opcode_table.json a constructor stands for, by its mnemonic. -/
def Instr.mnemonic : Instr → String
  | .cksum _ => "CKSUM"
  | .frame _ => "FRAME"
  | .deframe _ => "DEFRAME"
  | .tileEnc _ => "TILE.ENC"
  | .tileDec _ _ => "TILE.DEC"
  | .actEnc _ => "ACT.ENC"
  | .actDec _ _ => "ACT.DEC"
  | .resEnc _ => "RES.ENC"
  | .resDec _ _ => "RES.DEC"
  | .reserved9 => "RESERVED.9"
  | .reservedAB _ => "RESERVED.A_B"
  | .reservedCF _ => "RESERVED.C_F"
  | .tileMessage _ _ _ => "TileMessage"
  | .activationMessage _ _ _ => "ActivationMessage"
  | .resultMessage _ _ _ => "ResultMessage"

/-- A command as a unit's port takes it: the record of 30_encoding.md R60, op and every operand field of 10_state.md
R25. A format reads its own fields only. -/
structure Command where
  op         : BitVec 4
  data       : Bytes := []
  mtype      : U8 := 0
  header     : Bytes := []
  body       : Bytes := []
  buf        : Bytes := []
  modelId    : U64 := 0
  tileId     : U64 := 0
  tileKind   : U32 := 0
  layerIdx   : U32 := 0
  expertIdx  : U16 := 0
  sessionId  : U64 := 0
  stepId     : U64 := 0
  fromTileId : U64 := 0
  toTileId   : U64 := 0
  cyclesHint : U32 := 0
  voteGroup  : U8 := 0
  payload    : Bytes := []
  deriving DecidableEq, Repr

/-- What the host can hand to a unit: one command record, or a received buffer to DECODE there
(45_flows_and_properties.md R151; log 8). -/
inductive Item where
  | command (c : Command)
  | wire (buf : Bytes)
  deriving DecidableEq, Repr

end Sys2Proof
end

