-- ==== Sys2Proof/Machine/Operands.lean ====
section
/-! DEFINITION. Reading and building byte buffers: big-endian conversion (00_scope.md R13), MemRead (R14), field reads (20_memory.md R50) and the envelope (30_encoding.md R66). -/

namespace Sys2Proof.Machine

/-- `be_N(v)` of R13, N = w: w/8 bytes, byte k being bits w-1-8k down to w-8-8k of v. -/
def be (w : Nat) (v : BitVec w) : Bytes :=
  (List.range (w / 8)).map fun k => v.extractLsb' (w - 8 - 8 * k) 8

/-- `from_be(b)` of R13 as a natural number: the sum of b[k] times 256^(n-1-k), by Horner's scheme. -/
def fromBeNat (b : Bytes) : Nat :=
  b.foldl (fun acc x => acc * 256 + x.toNat) 0

/-- `from_be(b)` as a value of w bits, w = 8 len(b) wherever a rule uses it. -/
def fromBe (w : Nat) (b : Bytes) : BitVec w :=
  BitVec.ofNat w (fromBeNat b)

/-- `MemRead(B, off, n)` of R14: bytes off to off+n-1 of B; undefined unless off + n ≤ len(B), which is `none` here
(log 13). -/
def memRead (b : Bytes) (off n : Nat) : Option Bytes :=
  if off + n ≤ b.length then some ((b.drop off).take n) else none

/-- Reading a field of w bits (20_memory.md R50): `from_be(MemRead(B, off, w/8))`. -/
def readBe (w : Nat) (b : Bytes) (off : Nat) : Option (BitVec w) :=
  (memRead b off (w / 8)).map (fromBe w)

/-- The 8-byte envelope (30_encoding.md R66): version, message type, header length, body length. -/
def envelope (mtype : U8) (headerLength : U16) (bodyLength : U32) : Bytes :=
  [Config.VERSION, mtype] ++ be 16 headerLength ++ be 32 bodyLength

end Sys2Proof.Machine
end

