-- ==== Sys2Proof/WellFormed.lean ====
section
/-! DEFINITION. Which terms of `Instr` the encoding can carry. Every operand has its field's width by type (10_state.md R25); what is left is that the two reserved rows with a free op bit hold an op of their row (opcode_table.json, 30_encoding.md R65). -/

namespace Sys2Proof

/-- A reserved row's op matches the row's mask and pattern; every other constructor passes. -/
def Instr.wellFormed : Instr → Bool
  | .reservedAB op => op &&& 0xE#4 == 0xA#4
  | .reservedCF op => op &&& 0xC#4 == 0xC#4
  | .cksum _ | .frame _ | .deframe _ | .tileEnc _ | .tileDec _ _ | .actEnc _ | .actDec _ _ | .resEnc _
  | .resDec _ _ | .reserved9 | .tileMessage _ _ _ | .activationMessage _ _ _ | .resultMessage _ _ _ => true

/-- A well-formed instruction. -/
abbrev Instr.WellFormed (i : Instr) : Prop :=
  i.wellFormed = true

end Sys2Proof
end

