-- ==== Sys2Proof/Decode.lean ====
section
/-! DEFINITION. The decoder (total: every command record and every buffer), the encoder, and the opcode table's op rows. -/

namespace Sys2Proof

open Machine (be fromBe envelope)

/-- One op row of opcode_table.json: mnemonic, match and mask on op[3:0]. -/
structure OpRow where
  mnemonic : String
  pattern  : BitVec 4
  mask     : BitVec 4
  deriving DecidableEq, Repr

/-- The twelve op rows of opcode_table.json (30_encoding.md R62, R65). -/
def opRows : List OpRow :=
  [⟨"CKSUM", 0x0, 0xF⟩, ⟨"FRAME", 0x1, 0xF⟩, ⟨"DEFRAME", 0x2, 0xF⟩, ⟨"TILE.ENC", 0x3, 0xF⟩,
   ⟨"TILE.DEC", 0x4, 0xF⟩, ⟨"ACT.ENC", 0x5, 0xF⟩, ⟨"ACT.DEC", 0x6, 0xF⟩, ⟨"RES.ENC", 0x7, 0xF⟩,
   ⟨"RES.DEC", 0x8, 0xF⟩, ⟨"RESERVED.9", 0x9, 0xF⟩, ⟨"RESERVED.A_B", 0xA, 0xE⟩, ⟨"RESERVED.C_F", 0xC, 0xC⟩]

/-- An op row matches an op. -/
def OpRow.hits (r : OpRow) (op : BitVec 4) : Bool :=
  op &&& r.mask == r.pattern

/-- One wire row of opcode_table.json: mnemonic and match on the first two bytes of the envelope, E[63:48]. -/
structure WireRow where
  mnemonic : String
  pattern  : BitVec 16
  deriving DecidableEq, Repr

/-- The three wire rows of opcode_table.json (30_encoding.md R74). -/
def wireRows : List WireRow :=
  [⟨"TileMessage", 0x0100⟩, ⟨"ActivationMessage", 0x0101⟩, ⟨"ResultMessage", 0x0102⟩]

/-- A wire row matches a buffer that holds an envelope. -/
def WireRow.hits (r : WireRow) (buf : Bytes) : Bool :=
  decide (8 ≤ buf.length) && fromBe 16 (buf.take 2) == r.pattern

/-- The mnemonics of the op rows an op matches. -/
def opMnemonics (op : BitVec 4) : List String :=
  (opRows.filter fun r => r.hits op).map OpRow.mnemonic

/-- The mnemonics of the opcode-table rows an item matches. -/
def matchingRows : Item → List String
  | .command c => opMnemonics c.op
  | .wire buf => (wireRows.filter fun r => r.hits buf).map WireRow.mnemonic

/-- A command record as an instruction: op selects the row (R62, R65), the row's format the operand fields (R63). -/
def decodeCommand (c : Command) : Instr :=
  match c.op.toNat with
  | 0 => .cksum c.data
  | 1 => .frame ⟨c.mtype, c.header, c.body⟩
  | 2 => .deframe c.buf
  | 3 => .tileEnc ⟨c.modelId, c.tileId, c.tileKind, c.layerIdx, c.expertIdx, c.payload⟩
  | 4 => .tileDec c.header c.body
  | 5 => .actEnc ⟨c.sessionId, c.stepId, c.fromTileId, c.toTileId, c.payload⟩
  | 6 => .actDec c.header c.body
  | 7 => .resEnc ⟨c.sessionId, c.stepId, c.tileId, c.cyclesHint, c.voteGroup, c.payload⟩
  | 8 => .resDec c.header c.body
  | 9 => .reserved9
  | 10 | 11 => .reservedAB c.op
  | _ => .reservedCF c.op

/-- Why a buffer is a frame of none of the three message types (30_encoding.md R74, R75). -/
inductive WireReject where
  /-- fewer bytes than an envelope: DEFRAME answers ShortFrame -/
  | tooShort
  /-- a version byte other than 1: DEFRAME answers VersionMismatch -/
  | otherVersion (v : Byte)
  /-- message type 3 to 255: no message codec exists for it -/
  | unassignedType (t : U8)
  deriving DecidableEq, Repr

/-- A buffer as a wire frame, classified by its first two bytes (30_encoding.md R74); the lengths are read big-endian
(20_memory.md R42). Whether the buffer holds as many bytes as they declare is DEFRAME's check, not the decoder's. -/
def decodeWire (buf : Bytes) : Except WireReject Instr :=
  match buf with
  | v :: t :: h0 :: h1 :: b0 :: b1 :: b2 :: b3 :: rest =>
    if v ≠ Config.VERSION then .error (.otherVersion v)
    else if t = Config.MT_TILE then .ok (.tileMessage (fromBe 16 [h0, h1]) (fromBe 32 [b0, b1, b2, b3]) rest)
    else if t = Config.MT_ACT then .ok (.activationMessage (fromBe 16 [h0, h1]) (fromBe 32 [b0, b1, b2, b3]) rest)
    else if t = Config.MT_RES then .ok (.resultMessage (fromBe 16 [h0, h1]) (fromBe 32 [b0, b1, b2, b3]) rest)
    else .error (.unassignedType t)
  | _ => .error .tooShort

/-- Whatever a unit can be handed, as an instruction or rejected by name. -/
def decodeItem : Item → Except WireReject Instr
  | .command c => .ok (decodeCommand c)
  | .wire buf => decodeWire buf

/-- The encoder: an instruction as the item that carries it. Operand fields the format does not list are zero or empty
(log 22); a wire frame is its envelope and the bytes after it. -/
def encode : Instr → Item
  | .cksum data => .command { op := 0x0, data := data }
  | .frame f => .command { op := 0x1, mtype := f.mtype, header := f.header, body := f.body }
  | .deframe buf => .command { op := 0x2, buf := buf }
  | .tileEnc m => .command { op := 0x3, modelId := m.modelId, tileId := m.tileId, tileKind := m.tileKind,
                             layerIdx := m.layerIdx, expertIdx := m.expertIdx, payload := m.payload }
  | .tileDec header body => .command { op := 0x4, header := header, body := body }
  | .actEnc m => .command { op := 0x5, sessionId := m.sessionId, stepId := m.stepId, fromTileId := m.fromTileId,
                            toTileId := m.toTileId, payload := m.payload }
  | .actDec header body => .command { op := 0x6, header := header, body := body }
  | .resEnc m => .command { op := 0x7, sessionId := m.sessionId, stepId := m.stepId, tileId := m.tileId,
                            cyclesHint := m.cyclesHint, voteGroup := m.voteGroup, payload := m.payload }
  | .resDec header body => .command { op := 0x8, header := header, body := body }
  | .reserved9 => .command { op := 0x9 }
  | .reservedAB op => .command { op := op }
  | .reservedCF op => .command { op := op }
  | .tileMessage h b rest => .wire (envelope Config.MT_TILE h b ++ rest)
  | .activationMessage h b rest => .wire (envelope Config.MT_ACT h b ++ rest)
  | .resultMessage h b rest => .wire (envelope Config.MT_RES h b ++ rest)

/-- The item an opcode-table word stands for (log 19). A row of up to 63 bits is a command whose op is bits 3 to 0, every
operand zero or empty; a row of 64 bits is the envelope word E of R66, most significant byte first in the buffer, with
no byte after it. -/
def tableItem (nbits w : Nat) : Item :=
  if nbits < 64 then .command { op := BitVec.ofNat 4 w } else .wire (be 64 (BitVec.ofNat 64 w))

/-- The instruction the decoder reads from an opcode-table word; none where it rejects it. -/
def decodeTableWord (nbits w : Nat) : Option Instr :=
  match decodeItem (tableItem nbits w) with
  | .ok i => some i
  | .error _ => none

end Sys2Proof
end

