-- ==== Sys2Proof/Machine/State.lean ====
section
/-! DEFINITION. Responses, the agents' moves, the machine state, its reset, and the reasons a step can stop. -/

namespace Sys2Proof.Machine

/-- The result fields of a response with status OK (10_state.md R26, 30_encoding.md R64). -/
inductive Results where
  /-- CKSUM: the 16 checksum bytes -/
  | digest (d : Vector Byte 16)
  /-- FRAME and the three message encoders: the encoded frame -/
  | out (b : Bytes)
  /-- DEFRAME: message type, header slice, body slice -/
  | frame (f : Frame)
  /-- TILE.DEC, ACT.DEC, RES.DEC: the message value -/
  | message (m : Message)
  deriving DecidableEq, Repr

/-- The error kinds a command can end with (60_exceptions.md R171) and what each records (R172). -/
inductive Error where
  | shortFrame
  | versionMismatch
  | incompleteFrame
  | badHeaderSize (expected : U16)
  | lengthOverflow
  | illegalOp
  deriving DecidableEq, Repr

/-- A response (30_encoding.md R61): result fields exist with status OK only, `expected` with BadHeaderSize only. -/
inductive Response where
  | ok (r : Results)
  | error (e : Error)
  deriving DecidableEq, Repr

/-- What DECODE ends with (45_flows_and_properties.md R151, R152): a unit's response, or the host-level value
UnsupportedType(mtype), which no unit produces. -/
inductive DecodeOutcome where
  | response (r : Response)
  | unsupportedType (mtype : U8)
  deriving DecidableEq, Repr

/-- One move of one agent (log 5). -/
inductive Move where
  /-- the host hands an item to unit u -/
  | issue (unit : Nat) (item : Item)
  /-- unit u executes the command it has in progress, whole, and answers (70_reset_and_hazards.md R214) -/
  | run (unit : Nat)
  /-- unit u's reset is raised (70_reset_and_hazards.md R200) -/
  | reset (unit : Nat)
  deriving DecidableEq, Repr

/-- The unit a move is about. -/
def Move.unit : Move → Nat
  | .issue u _ => u
  | .run u => u
  | .reset u => u

/-- The state. A unit keeps nothing between commands (10_state.md R27), so what there is are the commands in flight,
the run's record, and whose move is next. -/
structure State where
  /-- the moves the agents are to make, the next one first; when it is empty the units finish what they have (model's own,
  log 5) -/
  schedule  : List Move
  /-- items issued and not yet answered, oldest first, each with its unit; a unit's oldest is its command in progress
  (10_state.md R34, 60_exceptions.md R188), its later ones wait at its port (log 6) -/
  held      : List (Nat × Item)
  /-- the unit whose command is being executed (model's own, log 5) -/
  active    : Nat
  /-- the responses given, oldest first, each with the unit it came from (70_reset_and_hazards.md R215) -/
  responses : List (Nat × Response)
  /-- what each DECODE ended with, oldest first (model's own, log 9) -/
  outcomes  : List (Nat × DecodeOutcome)
  deriving DecidableEq, Repr

/-- Why a step stops. -/
inductive Fault where
  /-- A MemRead outside its buffer, raised by a meaning. 20_memory.md R47 says none occurs, and no instruction of the
  model reaches it. Safe (log 13). -/
  | outOfBounds
  /-- A move about a unit the build does not have, raised by `step` (60_exceptions.md R188). Safe (log 4). -/
  | noSuchUnit
  deriving DecidableEq, Repr

/-- Why an instruction has no meaning. -/
inductive Refusal where
  /-- Only an arm of `exec` that has no meaning yet raises it; no arm does. Safe. -/
  | notModelled (mnemonic : String)
  deriving DecidableEq, Repr

/-- After reset no command is in flight (10_state.md R34). The run's record and the schedule are empty and the active
unit is 0: log 5, DESIGN CHOICE. -/
def State.reset : State :=
  { schedule := [], held := [], active := 0, responses := [], outcomes := [] }

end Sys2Proof.Machine
end

