-- ==== Sys2Proof/Machine/Flags.lean ====
section
/-! DEFINITION. There are no flags (10_state.md R22); the one outcome indicator is the status of a response. This file computes the response's status fields. -/

namespace Sys2Proof.Machine

/-- The code of an error (60_exceptions.md R171). -/
def Error.code : Error → BitVec 3
  | .shortFrame => 1
  | .versionMismatch => 2
  | .incompleteFrame => 3
  | .badHeaderSize _ => 4
  | .lengthOverflow => 5
  | .illegalOp => 6

/-- The `status` field (10_state.md R26): 0 is OK. -/
def Response.status : Response → BitVec 3
  | .ok _ => 0
  | .error e => e.code

/-- The `expected` field, present with BadHeaderSize only (60_exceptions.md R172). -/
def Response.expected : Response → Option U16
  | .error (.badHeaderSize n) => some n
  | .ok _ | .error .shortFrame | .error .versionMismatch | .error .incompleteFrame | .error .lengthOverflow
  | .error .illegalOp => none

/-- The result fields, present with status OK only (60_exceptions.md R176). -/
def Response.results : Response → Option Results
  | .ok r => some r
  | .error _ => none

end Sys2Proof.Machine
end

