-- ==== Sys2Proof/Machine/Ops.lean ====
section
/-! DEFINITION. The shared operations: ending a command (00_scope.md R14 `raise` and `return`), recording its response, and what a unit's port does with commands and reset. -/

namespace Sys2Proof.Machine

/-- `raise E(info)` (R14, 60_exceptions.md R176): the command ends with this error and no result field. Taking an
exception on this hardware is this and nothing more: nothing is saved and control goes nowhere. -/
def raise (e : Error) : Option Response :=
  some (.error e)

/-- `return` (R14): the command ends with status OK and its result fields. There is no return from an error
(60_exceptions.md R177). -/
def returnWith (r : Results) : Option Response :=
  some (.ok r)

/-- The active unit's response joins the record. -/
def State.respond (s : State) (r : Response) : State :=
  { s with responses := s.responses ++ [(s.active, r)] }

/-- The host notes what a DECODE on the active unit ended with. -/
def State.conclude (s : State) (o : DecodeOutcome) : State :=
  { s with outcomes := s.outcomes ++ [(s.active, o)] }

/-- The end of a command: its response, or the fault of a read outside a buffer. -/
def answer (r : Option Response) (s : State) : Host.Outcome State Fault Refusal :=
  match r with
  | some r => .next (s.respond r)
  | none => .fault .outOfBounds

/-- Unit 0 always exists, unit k+1 if the build has more than k further units: `u < N_UNITS` (00_scope.md R10). -/
def unitExists : Nat → Bool
  | 0 => true
  | k + 1 => decide (k < Config.extraUnits)

/-- The item unit u has in progress: its oldest. -/
def firstHeld (u : Nat) : List (Nat × Item) → Option Item
  | [] => none
  | (v, x) :: rest => if v = u then some x else firstHeld u rest

/-- The items without unit u's oldest. -/
def dropFirstHeld (u : Nat) : List (Nat × Item) → List (Nat × Item)
  | [] => []
  | (v, x) :: rest => if v = u then rest else (v, x) :: dropFirstHeld u rest

/-- How many items unit u has. -/
def heldCount (u : Nat) (held : List (Nat × Item)) : Nat :=
  (held.filter fun p => p.1 = u).length

/-- The host hands an item to unit u. An idle unit takes it. At a busy unit it waits or is refused by the port, which
the spec leaves open (60_exceptions.md R188; log 6). -/
def State.present (s : State) (u : Nat) (item : Item) : State :=
  if heldCount u s.held = 0 || Config.busyPortAccepts (heldCount u s.held) then
    { s with held := s.held ++ [(u, item)] }
  else s

/-- Unit u's command in progress leaves the unit. -/
def State.dropCurrent (s : State) (u : Nat) : State :=
  { s with held := dropFirstHeld u s.held }

/-- Reset of unit u (70_reset_and_hazards.md R201): the command in progress is dropped without a response, and nothing
else happens; an idle unit is unchanged. -/
def State.resetUnit (s : State) (u : Nat) : State :=
  s.dropCurrent u

end Sys2Proof.Machine
end

