-- ==== Sys2Proof/Machine/Checksum.lean ====
section
/-! DEFINITION. The checksum unit: ck16, tag_k and CKSUM (40_checksum.md R90, R91, R93). -/

namespace Sys2Proof.Machine

/-- `ck16(b) = HASH(b)[0:16]` (R90). -/
def ck16 (b : Bytes) : Vector Byte 16 :=
  Vector.ofFn fun i => (Config.hash b)[i.val]'(Nat.lt_of_lt_of_le i.isLt (Nat.le_add_right 16 Config.hashExtraLen))

/-- `tag_k(b) = ck16(b)[0:k]` (R93), the first k bytes of the checksum. -/
def tag (k : Nat) (b : Bytes) : Bytes :=
  (ck16 b).toList.take k

/-- CKSUM (R91): the digest is the checksum of the data; no error, ever. -/
def execCksum (data : Bytes) (s : State) : Host.Outcome State Fault Refusal :=
  answer (returnWith (.digest (ck16 data))) s

end Sys2Proof.Machine
end

