-- ==== Sys2Proof/Machine/FrameCodec.lean ====
section
/-! DEFINITION. The frame codec: FRAME and DEFRAME (41_frame.md). -/

namespace Sys2Proof.Machine

/-- The bytes of a frame (30_encoding.md R67): envelope, header, body. The lengths fit their fields wherever a command
emits them (41_frame.md R102). -/
def frameBytes (f : Frame) : Bytes :=
  envelope f.mtype (BitVec.ofNat 16 f.header.length) (BitVec.ofNat 32 f.body.length) ++ f.header ++ f.body

/-- What FRAME answers (41_frame.md R101, R102). -/
def frameResponse (f : Frame) : Option Response :=
  if f.header.length > Config.HLEN_MAX ∨ f.body.length > Config.BLEN_MAX then raise .lengthOverflow
  else returnWith (.out (frameBytes f))

/-- FRAME (41_frame.md R101). -/
def execFrame (f : Frame) (s : State) : Host.Outcome State Fault Refusal :=
  answer (frameResponse f) s

/-- What DEFRAME answers (41_frame.md R105): steps (a) to (d) in order, the length sum over the natural numbers
(R108). -/
def deframeResponse (buf : Bytes) : Option Response :=
  if buf.length < Config.ENV_LEN then raise .shortFrame
  else do
    let ver ← readBe 8 buf 0
    let mt ← readBe 8 buf 1
    let H ← readBe 16 buf 2
    let B ← readBe 32 buf 4
    if ver ≠ Config.VERSION then raise .versionMismatch
    else if buf.length < Config.ENV_LEN + H.toNat + B.toNat then raise .incompleteFrame
    else do
      let header ← memRead buf Config.ENV_LEN H.toNat
      let body ← memRead buf (Config.ENV_LEN + H.toNat) B.toNat
      returnWith (.frame ⟨mt, header, body⟩)

/-- DEFRAME (41_frame.md R105). -/
def execDeframe (buf : Bytes) (s : State) : Host.Outcome State Fault Refusal :=
  answer (deframeResponse buf) s

/-- What the three message encoders share (42_tile.md R121, 43_activation.md R131, 44_result.md R141): the scalars, then
k tag bytes of the payload, framed under the message type with the payload as body. The header is at most 48 bytes, so
the guard of R102 can only fire for the payload. -/
def encodeMessage (mtype : U8) (scalars : Bytes) (k : Nat) (payload : Bytes) : Option Response :=
  if payload.length > Config.BLEN_MAX then raise .lengthOverflow
  else frameResponse ⟨mtype, scalars ++ tag k payload, payload⟩

end Sys2Proof.Machine
end

