-- ==== Sys2Proof/Machine/ActivationCodec.lean ====
section
/-! DEFINITION. The ActivationMessage codec: ACT.ENC and ACT.DEC (43_activation.md). -/

namespace Sys2Proof.Machine

/-- The 32 scalar bytes of an Activation header (30_encoding.md R69). -/
def actScalars (m : ActivationMessage) : Bytes :=
  be 64 m.sessionId ++ be 64 m.stepId ++ be 64 m.fromTileId ++ be 64 m.toTileId

/-- What ACT.ENC answers (43_activation.md R131). -/
def actEncResponse (m : ActivationMessage) : Option Response :=
  encodeMessage Config.MT_ACT (actScalars m) Config.ACT_TAG_LEN m.payload

/-- ACT.ENC (43_activation.md R131). -/
def execActEnc (m : ActivationMessage) (s : State) : Host.Outcome State Fault Refusal :=
  answer (actEncResponse m) s

/-- What ACT.DEC answers (43_activation.md R133): the accepted length is 48, the declared 32 and the 16 tag bytes it
does not count (R134); the tag, header[32:48], is not read. -/
def actDecResponse (header body : Bytes) : Option Response :=
  if header.length ≠ Config.ACT_DEC_ACCEPT then raise (.badHeaderSize (BitVec.ofNat 16 Config.ACT_DEC_ACCEPT))
  else do
    let sessionId ← readBe 64 header 0
    let stepId ← readBe 64 header 8
    let fromTileId ← readBe 64 header 16
    let toTileId ← readBe 64 header 24
    returnWith (.message (.activation ⟨sessionId, stepId, fromTileId, toTileId, body⟩))

/-- ACT.DEC (43_activation.md R133). -/
def execActDec (header body : Bytes) (s : State) : Host.Outcome State Fault Refusal :=
  answer (actDecResponse header body) s

end Sys2Proof.Machine
end

