-- ==== Sys2Proof/Machine/ResultCodec.lean ====
section
/-! DEFINITION. The ResultMessage codec: RES.ENC and RES.DEC (44_result.md). -/

namespace Sys2Proof.Machine

/-- The 29 scalar bytes of a Result header (30_encoding.md R70): cycles_hint before vote_group. -/
def resScalars (m : ResultMessage) : Bytes :=
  be 64 m.sessionId ++ be 64 m.stepId ++ be 64 m.tileId ++ be 32 m.cyclesHint ++ be 8 m.voteGroup

/-- What RES.ENC answers (44_result.md R141). -/
def resEncResponse (m : ResultMessage) : Option Response :=
  encodeMessage Config.MT_RES (resScalars m) Config.RES_TAG_LEN m.payload

/-- RES.ENC (44_result.md R141). -/
def execResEnc (m : ResultMessage) (s : State) : Host.Outcome State Fault Refusal :=
  answer (resEncResponse m) s

/-- What RES.DEC answers (44_result.md R144); the four trailing bytes, header[29:33], are not read. -/
def resDecResponse (header body : Bytes) : Option Response :=
  if header.length ≠ Config.RES_HDR_LEN then raise (.badHeaderSize (BitVec.ofNat 16 Config.RES_HDR_LEN))
  else do
    let sessionId ← readBe 64 header 0
    let stepId ← readBe 64 header 8
    let tileId ← readBe 64 header 16
    let cyclesHint ← readBe 32 header 24
    let voteGroup ← readBe 8 header 28
    returnWith (.message (.result ⟨sessionId, stepId, tileId, cyclesHint, voteGroup, body⟩))

/-- RES.DEC (44_result.md R144). -/
def execResDec (header body : Bytes) (s : State) : Host.Outcome State Fault Refusal :=
  answer (resDecResponse header body) s

end Sys2Proof.Machine
end

