-- ==== Sys2Proof/Machine/TileCodec.lean ====
section
/-! DEFINITION. The TileMessage codec: TILE.ENC and TILE.DEC (42_tile.md). -/

namespace Sys2Proof.Machine

/-- The 26 scalar bytes of a Tile header (30_encoding.md R68). -/
def tileScalars (m : TileMessage) : Bytes :=
  be 64 m.modelId ++ be 64 m.tileId ++ be 32 m.tileKind ++ be 32 m.layerIdx ++ be 16 m.expertIdx

/-- What TILE.ENC answers (42_tile.md R121). -/
def tileEncResponse (m : TileMessage) : Option Response :=
  encodeMessage Config.MT_TILE (tileScalars m) Config.TILE_TAG_LEN m.payload

/-- TILE.ENC (42_tile.md R121). -/
def execTileEnc (m : TileMessage) (s : State) : Host.Outcome State Fault Refusal :=
  answer (tileEncResponse m) s

/-- What TILE.DEC answers (42_tile.md R123); the tag, header[26:34], is not read. -/
def tileDecResponse (header body : Bytes) : Option Response :=
  if header.length ≠ Config.TILE_HDR_LEN then raise (.badHeaderSize (BitVec.ofNat 16 Config.TILE_HDR_LEN))
  else do
    let modelId ← readBe 64 header 0
    let tileId ← readBe 64 header 8
    let tileKind ← readBe 32 header 16
    let layerIdx ← readBe 32 header 20
    let expertIdx ← readBe 16 header 24
    returnWith (.message (.tile ⟨modelId, tileId, tileKind, layerIdx, expertIdx, body⟩))

/-- TILE.DEC (42_tile.md R123). -/
def execTileDec (header body : Bytes) (s : State) : Host.Outcome State Fault Refusal :=
  answer (tileDecResponse header body) s

end Sys2Proof.Machine
end

