-- ==== Sys2Proof/Machine/Flows.lean ====
section
/-! DEFINITION. The host-level flows (45_flows_and_properties.md): ENCODE, DECODE with its dispatch on the message type, the wire message types as instructions, and the host's own checks. -/

namespace Sys2Proof.Machine

/-- ENCODE m (R150): the one encode command of m's kind. -/
def encodeInstr : Message → Instr
  | .tile m => .tileEnc m
  | .activation m => .actEnc m
  | .result m => .resEnc m

/-- The dispatch of R151: the decode command a message type selects, none for 3 to 255 (R152). -/
def decoderFor (mtype : U8) : Option (Bytes → Bytes → Instr) :=
  if mtype = Config.MT_TILE then some .tileDec
  else if mtype = Config.MT_ACT then some .actDec
  else if mtype = Config.MT_RES then some .resDec
  else none

/-- What the decode command a message type selects answers. -/
def decoderResponse (mtype : U8) : Option (Bytes → Bytes → Option Response) :=
  if mtype = Config.MT_TILE then some tileDecResponse
  else if mtype = Config.MT_ACT then some actDecResponse
  else if mtype = Config.MT_RES then some resDecResponse
  else none

/-- DECODE buf (R151): DEFRAME, and if it is OK the decode command its message type selects, both on the active unit and
both recorded; the outcome is the last response, or UnsupportedType for a type with no codec (R152). One step for the
two commands: log 8. -/
def decodeFlow (buf : Bytes) (s : State) : Host.Outcome State Fault Refusal :=
  match deframeResponse buf with
  | none => .fault .outOfBounds
  | some (.ok (.frame f)) =>
    match decoderResponse f.mtype with
    | none => .next ((s.respond (.ok (.frame f))).conclude (.unsupportedType f.mtype))
    | some decoder =>
      match decoder f.header f.body with
      | none => .fault .outOfBounds
      | some r => .next (((s.respond (.ok (.frame f))).respond r).conclude (.response r))
  | some r => .next ((s.respond r).conclude (.response r))

/-- A frame of message type 0 arrives (30_encoding.md R68, R74): DECODE of it. -/
def execTileMessage (headerLength : U16) (bodyLength : U32) (rest : Bytes) (s : State) :
    Host.Outcome State Fault Refusal :=
  decodeFlow (envelope Config.MT_TILE headerLength bodyLength ++ rest) s

/-- A frame of message type 1 arrives (30_encoding.md R69, R74): DECODE of it. -/
def execActivationMessage (headerLength : U16) (bodyLength : U32) (rest : Bytes) (s : State) :
    Host.Outcome State Fault Refusal :=
  decodeFlow (envelope Config.MT_ACT headerLength bodyLength ++ rest) s

/-- A frame of message type 2 arrives (30_encoding.md R70, R74): DECODE of it. -/
def execResultMessage (headerLength : U16) (bodyLength : U32) (rest : Bytes) (s : State) :
    Host.Outcome State Fault Refusal :=
  decodeFlow (envelope Config.MT_RES headerLength bodyLength ++ rest) s

/-- A buffer the decoder rejects: DECODE ends at DEFRAME, whose response says why, or at the dispatch (R151, R152). -/
def execUnclassified (buf : Bytes) (s : State) : Host.Outcome State Fault Refusal :=
  decodeFlow buf s

/-- How many bytes of a stream a decoded frame took (30_encoding.md R77, 70_reset_and_hazards.md R209). -/
def consumedBytes (f : Frame) : Nat :=
  Config.ENV_LEN + f.header.length + f.body.length

/-- Where a message header of a given type keeps its tag, and how long the tag is (30_encoding.md R68 to R71). -/
def tagPlace (mtype : U8) : Option (Nat × Nat) :=
  if mtype = Config.MT_TILE then some (Config.TILE_SCALAR_LEN, Config.TILE_TAG_LEN)
  else if mtype = Config.MT_ACT then some (Config.ACT_SCALAR_LEN, Config.ACT_TAG_LEN)
  else if mtype = Config.MT_RES then some (Config.RES_SCALAR_LEN, Config.RES_TAG_LEN)
  else none

/-- The integrity check a host can make for itself with a CKSUM of the body (45_flows_and_properties.md R154); no command
makes it. None where the type has no tag or the header is too short to hold one. -/
def hostIntegrityCheck (mtype : U8) (header : Bytes) (digest : Vector Byte 16) : Option Bool :=
  match tagPlace mtype with
  | none => none
  | some (off, k) => (memRead header off k).map fun t => t == digest.toList.take k

end Sys2Proof.Machine
end

