-- ==== Sys2Proof/Machine/Reserved.lean ====
section
/-! DEFINITION. The reserved command codes 0x9 to 0xF (30_encoding.md R65): each answers IllegalOp and does nothing else. -/

namespace Sys2Proof.Machine

/-- Op 0x9 (R65). -/
def execReserved9 (s : State) : Host.Outcome State Fault Refusal :=
  answer (raise .illegalOp) s

/-- Op 0xA and 0xB (R65): the op's free bit selects nothing. -/
def execReservedAB (_op : BitVec 4) (s : State) : Host.Outcome State Fault Refusal :=
  answer (raise .illegalOp) s

/-- Op 0xC to 0xF (R65): the op's free bits select nothing. -/
def execReservedCF (_op : BitVec 4) (s : State) : Host.Outcome State Fault Refusal :=
  answer (raise .illegalOp) s

end Sys2Proof.Machine
end

