-- ==== Sys2Proof/Machine/Dispatch.lean ====
section
/-! DEFINITION. One arm per constructor of Instr, each a call of its meaning. -/

namespace Sys2Proof.Machine

def exec (i : Instr) (s : State) : Host.Outcome State Fault Refusal :=
  match i with
  -- checksum unit
  | .cksum data => Sys2Proof.Machine.execCksum data s
  -- frame codec
  | .frame f => Sys2Proof.Machine.execFrame f s
  | .deframe buf => Sys2Proof.Machine.execDeframe buf s
  -- message codecs
  | .tileEnc m => Sys2Proof.Machine.execTileEnc m s
  | .tileDec header body => Sys2Proof.Machine.execTileDec header body s
  | .actEnc m => Sys2Proof.Machine.execActEnc m s
  | .actDec header body => Sys2Proof.Machine.execActDec header body s
  | .resEnc m => Sys2Proof.Machine.execResEnc m s
  | .resDec header body => Sys2Proof.Machine.execResDec header body s
  -- reserved command codes
  | .reserved9 => Sys2Proof.Machine.execReserved9 s
  | .reservedAB op => Sys2Proof.Machine.execReservedAB op s
  | .reservedCF op => Sys2Proof.Machine.execReservedCF op s
  -- wire message types
  | .tileMessage h b rest => Sys2Proof.Machine.execTileMessage h b rest s
  | .activationMessage h b rest => Sys2Proof.Machine.execActivationMessage h b rest s
  | .resultMessage h b rest => Sys2Proof.Machine.execResultMessage h b rest s

end Sys2Proof.Machine
end

