-- ==== Sys2Proof/Machine/Run.lean ====
section
/-! DEFINITION. What a unit does with the item it has in progress. -/

namespace Sys2Proof.Machine

/-- Executing an item: a command record is decoded and executed; a buffer is decoded and its frame executed, and one the
decoder rejects goes through DECODE's error and no-codec cases. -/
def execItem (item : Item) (s : State) : Host.Outcome State Fault Refusal :=
  match item with
  | .command c => exec (decodeCommand c) s
  | .wire buf =>
    match decodeWire buf with
    | .ok i => exec i s
    | .error _ => execUnclassified buf s

/-- Unit u's move: its command in progress is executed whole and leaves the unit (70_reset_and_hazards.md R214). A unit
that has none does nothing (log 17). -/
def runUnit (u : Nat) (s : State) : Host.Outcome State Fault Refusal :=
  match firstHeld u s.held with
  | none => .next s
  | some item => execItem item { s.dropCurrent u with active := u }

/-- One move of one agent. -/
def makeMove (m : Move) (s : State) : Host.Outcome State Fault Refusal :=
  match m with
  | .issue u item => .next (s.present u item)
  | .run u => runUnit u s
  | .reset u => .next (s.resetUnit u)

/-- The next move, and the schedule after it. Where the schedule names no move, a unit that has a command executes it, the
oldest command first, so every command a port took is answered after finitely many steps unless a reset drops it
(70_reset_and_hazards.md R214; that the oldest goes first is log 5). None where nothing is left to do. -/
def State.nextMove (s : State) : Option (Move × List Move) :=
  match s.schedule, s.held with
  | m :: rest, _ => some (m, rest)
  | [], (u, _) :: _ => some (.run u, [])
  | [], [] => none

/-- The state in which the next move is unit 0 executing the given item. -/
def State.withFetchItem (s : State) (item : Item) : State :=
  { s with schedule := .run 0 :: s.schedule, held := (0, item) :: s.held }

end Sys2Proof.Machine
end

