-- ==== Sys2Proof/Machine/Step.lean ====
section
/-! DEFINITION. One step: the next move. -/

namespace Sys2Proof.Machine

/-- One step makes the next move: the schedule's (log 5), or, when that is empty, the oldest outstanding command's
execution (70_reset_and_hazards.md R214). With nothing left to do nothing happens (log 17); a move about a unit the build
does not have is no move of this hardware and faults (log 4). -/
def step (s : State) : Host.Outcome State Fault Refusal :=
  match s.nextMove with
  | none => .next s
  | some (m, rest) =>
    if unitExists m.unit then makeMove m { s with schedule := rest } else .fault .noSuchUnit

/-- The opcode-table word as the item unit 0 executes in the very next step (log 19). -/
def State.withFetchWord (s : State) (nbits w : Nat) : State :=
  s.withFetchItem (tableItem nbits w)

end Sys2Proof.Machine
end

