-- ==== Sys2Proof/Safety.lean ====
section
/-! DEFINITION. The terms claims are stated in: slices and declared lengths of a buffer, legal responses and states, and what a host sees of one unit. -/

namespace Sys2Proof

open Machine

/-- `b[i:j]` of 00_scope.md R12, which defines it for i ≤ j ≤ len(b) only. DESIGN CHOICE (log 23): outside that range this
is what is left of the range inside b. Statements and proofs use it, no meaning does. -/
def slice (b : Bytes) (i j : Nat) : Bytes :=
  (b.drop i).take (j - i)

/-- The header length a buffer declares: its bytes 2 and 3, big-endian (20_memory.md R42). -/
def declaredHeader (buf : Bytes) : Nat :=
  fromBeNat (slice buf 2 4)

/-- The body length a buffer declares: its bytes 4 to 7, big-endian (20_memory.md R42). -/
def declaredBody (buf : Bytes) : Nat :=
  fromBeNat (slice buf 4 8)

/-- The lengths of a frame fit the envelope (41_frame.md R102). -/
def Frame.Fits (f : Frame) : Prop :=
  f.header.length ≤ Config.HLEN_MAX ∧ f.body.length ≤ Config.BLEN_MAX

/-- The payload of a message value. -/
def Message.payload : Message → Bytes
  | .tile m => m.payload
  | .activation m => m.payload
  | .result m => m.payload

/-- The message type of a message value (00_scope.md R8). -/
def Message.mtype : Message → U8
  | .tile _ => Config.MT_TILE
  | .activation _ => Config.MT_ACT
  | .result _ => Config.MT_RES

/-- The scalar prefix of a message's header (30_encoding.md R68 to R70). -/
def Message.scalars : Message → Bytes
  | .tile m => tileScalars m
  | .activation m => actScalars m
  | .result m => resScalars m

/-- The length of the header its decoder accepts (30_encoding.md R74). -/
def Message.headerLength : Message → Nat
  | .tile _ => Config.TILE_HDR_LEN
  | .activation _ => Config.ACT_HDR_LEN
  | .result _ => Config.RES_HDR_LEN

/-- How many tag bytes its header ends with (30_encoding.md R71). -/
def Message.tagLength : Message → Nat
  | .tile _ => Config.TILE_TAG_LEN
  | .activation _ => Config.ACT_TAG_LEN
  | .result _ => Config.RES_TAG_LEN

/-- A response the hardware may give: an emitted frame is the bytes of a frame whose lengths fit (41_frame.md R102),
delivered parts fit, and BadHeaderSize names one of the three accepted lengths (60_exceptions.md R172). -/
def Machine.Response.Legal : Response → Prop
  | .ok (.out b) => ∃ f : Frame, f.Fits ∧ b = frameBytes f
  | .ok (.frame f) => f.Fits
  | .ok (.digest _) => True
  | .ok (.message _) => True
  | .error (.badHeaderSize n) => n = 34 ∨ n = 48 ∨ n = 33
  | .error .shortFrame => True
  | .error .versionMismatch => True
  | .error .incompleteFrame => True
  | .error .lengthOverflow => True
  | .error .illegalOp => True

/-- A result DECODE may end with (45_flows_and_properties.md R151, R152): a message value, an error of DEFRAME or of a
message decoder, or UnsupportedType of a type that has no codec. -/
def Machine.DecodeOutcome.Legal : DecodeOutcome → Prop
  | .response (.ok (.message _)) => True
  | .response (.error (.badHeaderSize n)) => n = 34 ∨ n = 48 ∨ n = 33
  | .response (.error .shortFrame) => True
  | .response (.error .versionMismatch) => True
  | .response (.error .incompleteFrame) => True
  | .response (.ok (.digest _)) => False
  | .response (.ok (.out _)) => False
  | .response (.ok (.frame _)) => False
  | .response (.error .lengthOverflow) => False
  | .response (.error .illegalOp) => False
  | .unsupportedType t => 3 ≤ t.toNat

/-- The invariant of a run: everything on record is legal and came from a unit that exists, and so do the commands in
flight. -/
def Machine.State.Inv (s : State) : Prop :=
  (∀ p ∈ s.responses, p.2.Legal ∧ unitExists p.1 = true) ∧
  (∀ p ∈ s.outcomes, p.2.Legal ∧ unitExists p.1 = true) ∧
  (∀ p ∈ s.held, unitExists p.1 = true)

/-- The entries of a record that are about unit u, in order. -/
def ofUnit {α : Type} (u : Nat) (l : List (Nat × α)) : List α :=
  (l.filter fun p => p.1 = u).map Prod.snd

/-- What a host sees of one unit: what it was handed and has not answered, what it answered, what its DECODEs ended
with. -/
structure UnitView where
  held      : List Item
  responses : List Response
  outcomes  : List DecodeOutcome
  deriving DecidableEq, Repr

/-- Unit u as the host sees it. -/
def Machine.State.view (s : State) (u : Nat) : UnitView :=
  { held := ofUnit u s.held, responses := ofUnit u s.responses, outcomes := ofUnit u s.outcomes }

/-- A state after the active unit has given the responses rs and the host has noted the outcomes os, all else the
same. -/
def Machine.State.record (s : State) (rs : List Response) (os : List DecodeOutcome) : State :=
  { s with responses := s.responses ++ rs.map (fun r => (s.active, r)),
           outcomes := s.outcomes ++ os.map (fun o => (s.active, o)) }

/-- The responses an item gets, in order; an item gets the same in every state (10_state.md R27). -/
def responsesOf (item : Item) : List Response :=
  match execItem item State.reset with
  | .next t => t.responses.map Prod.snd
  | .fault _ => []
  | .refused _ => []

/-- Two steps in a row. -/
def Machine.stepTwice (s : State) : Host.Outcome State Fault Refusal :=
  match step s with
  | .next t => step t
  | .fault r => .fault r
  | .refused r => .refused r

end Sys2Proof
end

