-- ==== Sys2Proof/Certificates/Slice0/Obligations.lean ====
section
/-! DEFINITION. The statements for the provers. Each docstring cites the rule of spec/ it formalises, and says where a statement rests on a decision of the spec (92_eei_decisions.md) or a choice of the model (notes/assumptions). -/

open Sys2Proof Sys2Proof.Machine

/-- 30_encoding.md R60, R62, R63, R65, R66: every well-formed instruction, whatever its operands, is what the decoder
reads from its encoding. The record and buffer it is encoded as are the model's layout (log 1, log 22). -/
def Obligations.DecodeOfEncodeIsTheInstruction : Prop :=
  ∀ i : Instr, i.WellFormed → decodeItem (encode i) = .ok i

/-- 30_encoding.md R62, R65, R74: whatever the decoder reads, from any record or buffer, is well-formed. -/
def Obligations.DecodedItemsAreWellFormed : Prop :=
  ∀ (item : Item) (i : Instr), decodeItem item = .ok i → i.WellFormed

/-- 30_encoding.md R66, R74: a buffer the decoder classifies is exactly the encoding of what it read, so no byte of it
is dropped and none is read twice. -/
def Obligations.ClassifiedBufferReencodesExactly : Prop :=
  ∀ (buf : Bytes) (i : Instr), decodeWire buf = .ok i → encode i = .wire buf

/-- 30_encoding.md R62, R65 and opcode_table.json (the op numbers are the spec's decision D2): every 4-bit op matches
exactly one op row of the table, the row of the instruction its record decodes to. -/
def Obligations.EveryOpSelectsExactlyOneRow : Prop :=
  ∀ c : Command, opMnemonics c.op = [(decodeCommand c).mnemonic]

/-- opcode_table.json, 30_encoding.md R62, R65, R74: words of its rows, read as the table numbers its bits (the op numbers
are the spec's decision D2). That a command row's word carries every operand zero or empty, and that an envelope word is
the 8-byte buffer with nothing after it, is the model's choice (log 19). Sanity only. -/
def Obligations.OpcodeTableWordsDecode : Prop :=
  decodeTableWord 8 0x0 = some (.cksum []) ∧
  decodeTableWord 8 0x1 = some (.frame ⟨0, [], []⟩) ∧
  decodeTableWord 8 0x2 = some (.deframe []) ∧
  decodeTableWord 8 0x3 = some (.tileEnc ⟨0, 0, 0, 0, 0, []⟩) ∧
  decodeTableWord 8 0x6 = some (.actDec [] []) ∧
  decodeTableWord 8 0x8 = some (.resDec [] []) ∧
  decodeTableWord 8 0xB = some (.reservedAB 0xB) ∧
  decodeTableWord 8 0xF = some (.reservedCF 0xF) ∧
  decodeTableWord 64 0x0100002200000064 = some (.tileMessage 34 100 []) ∧
  decodeTableWord 64 0x0101003000000001 = some (.activationMessage 48 1 []) ∧
  decodeTableWord 64 0x0102002100000032 = some (.resultMessage 33 50 []) ∧
  decodeTableWord 64 0x0103000000000000 = none

/-- 30_encoding.md R74, R75: how a buffer is classified, and why one is not: fewer bytes than an envelope, another
version, an unassigned message type; the two lengths are read big-endian (20_memory.md R42). -/
def Obligations.BuffersClassifyByTheirFirstTwoBytes : Prop :=
  ∀ buf : Bytes,
    (decodeWire buf = .error .tooShort ↔ buf.length < 8) ∧
    (∀ v, decodeWire buf = .error (.otherVersion v) ↔ 8 ≤ buf.length ∧ buf.getD 0 0 = v ∧ v ≠ 1) ∧
    (∀ t, decodeWire buf = .error (.unassignedType t) ↔
      8 ≤ buf.length ∧ buf.getD 0 0 = 1 ∧ buf.getD 1 0 = t ∧ 3 ≤ t.toNat) ∧
    (∀ H B rest, decodeWire buf = .ok (.tileMessage H B rest) ↔
      8 ≤ buf.length ∧ buf.getD 0 0 = 1 ∧ buf.getD 1 0 = 0 ∧
      H.toNat = declaredHeader buf ∧ B.toNat = declaredBody buf ∧ rest = buf.drop 8) ∧
    (∀ H B rest, decodeWire buf = .ok (.activationMessage H B rest) ↔
      8 ≤ buf.length ∧ buf.getD 0 0 = 1 ∧ buf.getD 1 0 = 1 ∧
      H.toNat = declaredHeader buf ∧ B.toNat = declaredBody buf ∧ rest = buf.drop 8) ∧
    (∀ H B rest, decodeWire buf = .ok (.resultMessage H B rest) ↔
      8 ≤ buf.length ∧ buf.getD 0 0 = 1 ∧ buf.getD 1 0 = 2 ∧
      H.toNat = declaredHeader buf ∧ B.toNat = declaredBody buf ∧ rest = buf.drop 8)

/-- 00_scope.md R13 (an inference the spec marks as derived): be_N and from_be undo each other at each of the four
widths. -/
def Obligations.BigEndianConversionsAreInverse : Prop :=
  (∀ v : U8, fromBe 8 (be 8 v) = v) ∧ (∀ v : U16, fromBe 16 (be 16 v) = v) ∧
  (∀ v : U32, fromBe 32 (be 32 v) = v) ∧ (∀ v : U64, fromBe 64 (be 64 v) = v) ∧
  (∀ b : Bytes, b.length = 1 → be 8 (fromBe 8 b) = b) ∧ (∀ b : Bytes, b.length = 2 → be 16 (fromBe 16 b) = b) ∧
  (∀ b : Bytes, b.length = 4 → be 32 (fromBe 32 b) = b) ∧ (∀ b : Bytes, b.length = 8 → be 64 (fromBe 64 b) = b)

/-- 30_encoding.md R66: the envelope is 8 bytes, and in its 64-bit big-endian word E the version is E[63:56] = 1, the
message type E[55:48], the header length E[47:32], the body length E[31:0]. -/
def Obligations.EnvelopeWordCarriesItsFields : Prop :=
  ∀ (mt : U8) (H : U16) (B : U32),
    (envelope mt H B).length = 8 ∧
    (fromBe 64 (envelope mt H B)).extractLsb' 56 8 = 1#8 ∧
    (fromBe 64 (envelope mt H B)).extractLsb' 48 8 = mt ∧
    (fromBe 64 (envelope mt H B)).extractLsb' 32 16 = H ∧
    (fromBe 64 (envelope mt H B)).extractLsb' 0 32 = B

/-- 40_checksum.md R90, R91 (a command of its own by the spec's decision D1): CKSUM never fails; its digest is the first
16 bytes of HASH of the whole data, and nothing but its response is added. Holds for every HASH (log 2). -/
def Obligations.CksumAnswersFirstSixteenHashBytes : Prop :=
  (∀ c : Command, c.op = 0x0 → decodeCommand c = .cksum c.data) ∧
  ∀ (data : Bytes) (s : State), ∃ d : Vector Byte 16,
    d.toList = (Config.hash data).toList.take 16 ∧ exec (.cksum data) s = .next (s.respond (.ok (.digest d)))

/-- 41_frame.md R101: FRAME's output, byte for byte, and its one error. -/
def Obligations.FrameIsEnvelopeHeaderBody : Prop :=
  (∀ c : Command, c.op = 0x1 → decodeCommand c = .frame ⟨c.mtype, c.header, c.body⟩) ∧
  ∀ (mt : U8) (header body : Bytes) (s : State),
    exec (.frame ⟨mt, header, body⟩) s = .next (s.respond (
      if header.length > 65535 ∨ body.length > 4294967295 then .error .lengthOverflow
      else .ok (.out ([0x01] ++ [mt] ++ be 16 (BitVec.ofNat 16 header.length)
        ++ be 32 (BitVec.ofNat 32 body.length) ++ header ++ body))))

/-- 41_frame.md R103 (derived by the spec): what FRAME guarantees of its output, read back field by field. -/
def Obligations.FrameOutputReadsBack : Prop :=
  ∀ (f : Frame) (s : State), f.header.length ≤ 65535 → f.body.length ≤ 4294967295 →
    ∃ out, exec (.frame f) s = .next (s.respond (.ok (.out out))) ∧
      out.length = 8 + f.header.length + f.body.length ∧
      out.getD 0 0 = 1 ∧ out.getD 1 0 = f.mtype ∧
      fromBeNat (slice out 2 4) = f.header.length ∧ fromBeNat (slice out 4 8) = f.body.length ∧
      slice out 8 (8 + f.header.length) = f.header ∧ slice out (8 + f.header.length) out.length = f.body

/-- 41_frame.md R102 (the spec's decision D10): a header over 65535 bytes or a body or payload over 4294967295 bytes gets
LengthOverflow, code 5, and no output, from FRAME and from each message encoder. -/
def Obligations.OverlongLengthsAreRefused : Prop :=
  (Response.error .lengthOverflow).status = 5 ∧ (Response.error .lengthOverflow).results = none ∧
  (∀ (f : Frame) (s : State), f.header.length > 65535 ∨ f.body.length > 4294967295 →
    exec (.frame f) s = .next (s.respond (.error .lengthOverflow))) ∧
  (∀ (m : Message) (s : State), m.payload.length > 4294967295 →
    exec (encodeInstr m) s = .next (s.respond (.error .lengthOverflow)))

/-- 41_frame.md R105: DEFRAME's four steps in order and its three results. -/
def Obligations.DeframeFollowsItsFourSteps : Prop :=
  (∀ c : Command, c.op = 0x2 → decodeCommand c = .deframe c.buf) ∧
  ∀ (buf : Bytes) (s : State),
    exec (.deframe buf) s = .next (s.respond (
      if buf.length < 8 then .error .shortFrame
      else if buf.getD 0 0 ≠ 1 then .error .versionMismatch
      else if buf.length < 8 + fromBeNat (slice buf 2 4) + fromBeNat (slice buf 4 8) then .error .incompleteFrame
      else .ok (.frame ⟨buf.getD 1 0, slice buf 8 (8 + fromBeNat (slice buf 2 4)),
        slice buf (8 + fromBeNat (slice buf 2 4)) (8 + fromBeNat (slice buf 2 4) + fromBeNat (slice buf 4 8))⟩)))

/-- 45_flows_and_properties.md R156, R157 and 41_frame.md R106 (the laws the spec derives from R105): a buffer under 8
bytes is ShortFrame whatever its bytes, a longer one with another version is VersionMismatch whatever its lengths say,
and IncompleteFrame comes only after both checks. -/
def Obligations.DeframeChecksLengthThenVersion : Prop :=
  ∀ (buf : Bytes) (s : State),
    (buf.length < 8 → exec (.deframe buf) s = .next (s.respond (.error .shortFrame))) ∧
    (8 ≤ buf.length → buf.getD 0 0 ≠ 1 → exec (.deframe buf) s = .next (s.respond (.error .versionMismatch))) ∧
    (exec (.deframe buf) s = .next (s.respond (.error .incompleteFrame)) → 8 ≤ buf.length ∧ buf.getD 0 0 = 1)

/-- 45_flows_and_properties.md R158 (derived by the spec): every proper prefix of a frame FRAME emitted is refused,
IncompleteFrame from 8 bytes on, ShortFrame below; cutting body bytes is a case of the first. -/
def Obligations.TruncatedFrameIsRefused : Prop :=
  ∀ (f : Frame) (out : Bytes) (s : State) (n : Nat),
    exec (.frame f) s = .next (s.respond (.ok (.out out))) → n < out.length →
    exec (.deframe (out.take n)) s =
      .next (s.respond (.error (if n < 8 then .shortFrame else .incompleteFrame)))

/-- 41_frame.md R107: bytes after the end of the frame change neither the status nor a result field, and of two frames
back to back the first alone is decoded. -/
def Obligations.TrailingBytesAreIgnored : Prop :=
  (∀ (buf : Bytes) (s : State), 8 ≤ buf.length → buf.getD 0 0 = 1 →
    8 + fromBeNat (slice buf 2 4) + fromBeNat (slice buf 4 8) < buf.length →
    exec (.deframe buf) s =
      exec (.deframe (buf.take (8 + fromBeNat (slice buf 2 4) + fromBeNat (slice buf 4 8)))) s) ∧
  (∀ (f g : Frame) (s : State), f.Fits → g.Fits →
    exec (.deframe (frameBytes f ++ frameBytes g)) s = .next (s.respond (.ok (.frame f))))

/-- 41_frame.md R108 to R110 (the spec's decision D11 and its derivations): the declared lengths are added over the
natural numbers, so no sum wraps to a small one; any message type passes; empty parts are empty slices. -/
def Obligations.DeclaredLengthsAddExactly : Prop :=
  ∀ (mt : U8) (H : U16) (B : U32) (rest : Bytes) (s : State),
    (rest.length < H.toNat + B.toNat →
      exec (.deframe (envelope mt H B ++ rest)) s = .next (s.respond (.error .incompleteFrame))) ∧
    (H.toNat + B.toNat ≤ rest.length →
      exec (.deframe (envelope mt H B ++ rest)) s = .next (s.respond (.ok (.frame
        ⟨mt, slice rest 0 H.toNat, slice rest H.toNat (H.toNat + B.toNat)⟩))))

/-- 41_frame.md R111 (derived by the spec): the frame round trip, both ways. -/
def Obligations.FrameAndDeframeUndoEachOther : Prop :=
  (∀ (f : Frame) (s : State), f.header.length ≤ 65535 → f.body.length ≤ 4294967295 →
    ∃ out, exec (.frame f) s = .next (s.respond (.ok (.out out))) ∧
      exec (.deframe out) s = .next (s.respond (.ok (.frame f)))) ∧
  (∀ (buf : Bytes) (f : Frame) (s : State),
    exec (.deframe buf) s = .next (s.respond (.ok (.frame f))) →
    exec (.frame f) s = .next (s.respond (.ok (.out (buf.take (consumedBytes f))))))

/-- 42_tile.md R121 (the 8-byte tag is the spec's decision D6): TILE.ENC's frame, byte for byte. -/
def Obligations.TileEncBuildsItsFrame : Prop :=
  (∀ c : Command, c.op = 0x3 →
    decodeCommand c = .tileEnc ⟨c.modelId, c.tileId, c.tileKind, c.layerIdx, c.expertIdx, c.payload⟩) ∧
  ∀ (m : TileMessage) (s : State), exec (.tileEnc m) s = .next (s.respond (
    if m.payload.length > 4294967295 then .error .lengthOverflow
    else .ok (.out ([0x01, 0x00] ++ [0x00, 0x22] ++ be 32 (BitVec.ofNat 32 m.payload.length)
      ++ (be 64 m.modelId ++ be 64 m.tileId ++ be 32 m.tileKind ++ be 32 m.layerIdx ++ be 16 m.expertIdx)
      ++ (ck16 m.payload).toList.take 8 ++ m.payload))))

/-- 43_activation.md R131: ACT.ENC's frame, byte for byte. -/
def Obligations.ActEncBuildsItsFrame : Prop :=
  (∀ c : Command, c.op = 0x5 →
    decodeCommand c = .actEnc ⟨c.sessionId, c.stepId, c.fromTileId, c.toTileId, c.payload⟩) ∧
  ∀ (m : ActivationMessage) (s : State), exec (.actEnc m) s = .next (s.respond (
    if m.payload.length > 4294967295 then .error .lengthOverflow
    else .ok (.out ([0x01, 0x01] ++ [0x00, 0x30] ++ be 32 (BitVec.ofNat 32 m.payload.length)
      ++ (be 64 m.sessionId ++ be 64 m.stepId ++ be 64 m.fromTileId ++ be 64 m.toTileId)
      ++ (ck16 m.payload).toList ++ m.payload))))

/-- 44_result.md R141 (the 4-byte tag is the spec's decision D8): RES.ENC's frame, byte for byte. -/
def Obligations.ResEncBuildsItsFrame : Prop :=
  (∀ c : Command, c.op = 0x7 →
    decodeCommand c = .resEnc ⟨c.sessionId, c.stepId, c.tileId, c.cyclesHint, c.voteGroup, c.payload⟩) ∧
  ∀ (m : ResultMessage) (s : State), exec (.resEnc m) s = .next (s.respond (
    if m.payload.length > 4294967295 then .error .lengthOverflow
    else .ok (.out ([0x01, 0x02] ++ [0x00, 0x21] ++ be 32 (BitVec.ofNat 32 m.payload.length)
      ++ (be 64 m.sessionId ++ be 64 m.stepId ++ be 64 m.tileId ++ be 32 m.cyclesHint ++ [m.voteGroup])
      ++ (ck16 m.payload).toList.take 4 ++ m.payload))))

/-- 42_tile.md R123: TILE.DEC, every header length and every header. The tag bytes, header[26:34], do not occur. -/
def Obligations.TileDecUnpacksItsHeader : Prop :=
  (∀ c : Command, c.op = 0x4 → decodeCommand c = .tileDec c.header c.body) ∧
  ∀ (header body : Bytes) (s : State), exec (.tileDec header body) s = .next (s.respond (
    if header.length ≠ 34 then .error (.badHeaderSize 34)
    else .ok (.message (.tile
      { modelId := fromBe 64 (slice header 0 8), tileId := fromBe 64 (slice header 8 16),
        tileKind := fromBe 32 (slice header 16 20), layerIdx := fromBe 32 (slice header 20 24),
        expertIdx := fromBe 16 (slice header 24 26), payload := body }))))

/-- 43_activation.md R133, R134 (48 and the reported length are the spec's decisions D7 and D13): ACT.DEC, every header
length and every header. -/
def Obligations.ActDecUnpacksItsHeader : Prop :=
  (∀ c : Command, c.op = 0x6 → decodeCommand c = .actDec c.header c.body) ∧
  ∀ (header body : Bytes) (s : State), exec (.actDec header body) s = .next (s.respond (
    if header.length ≠ 32 + 16 then .error (.badHeaderSize 48)
    else .ok (.message (.activation
      { sessionId := fromBe 64 (slice header 0 8), stepId := fromBe 64 (slice header 8 16),
        fromTileId := fromBe 64 (slice header 16 24), toTileId := fromBe 64 (slice header 24 32),
        payload := body }))))

/-- 44_result.md R144 (the reported length is the spec's decision D13): RES.DEC, every header length and every header. -/
def Obligations.ResDecUnpacksItsHeader : Prop :=
  (∀ c : Command, c.op = 0x8 → decodeCommand c = .resDec c.header c.body) ∧
  ∀ (header body : Bytes) (s : State), exec (.resDec header body) s = .next (s.respond (
    if header.length ≠ 33 then .error (.badHeaderSize 33)
    else .ok (.message (.result
      { sessionId := fromBe 64 (slice header 0 8), stepId := fromBe 64 (slice header 8 16),
        tileId := fromBe 64 (slice header 16 24), cyclesHint := fromBe 32 (slice header 24 28),
        voteGroup := header.getD 28 0, payload := body }))))

/-- 30_encoding.md R68 to R72: where an encoded message keeps its parts. Header lengths 34, 48, 33 and tag lengths 8, 16,
4 by message type (8 and 4 are the spec's decisions D6 and D8); total length 42, 56, 41 and the payload. -/
def Obligations.EncodedMessageLayout : Prop :=
  ∀ (m : Message) (s : State), m.payload.length ≤ 4294967295 →
    ∃ out, exec (encodeInstr m) s = .next (s.respond (.ok (.out out))) ∧
      match m with
      | .tile t => out.take 4 = [0x01, 0x00, 0x00, 0x22] ∧ out.length = 42 + t.payload.length ∧
          slice out 8 34 = tileScalars t ∧ slice out 34 42 = (ck16 t.payload).toList.take 8 ∧ out.drop 42 = t.payload
      | .activation a => out.take 4 = [0x01, 0x01, 0x00, 0x30] ∧ out.length = 56 + a.payload.length ∧
          slice out 8 40 = actScalars a ∧ slice out 40 56 = (ck16 a.payload).toList ∧ out.drop 56 = a.payload
      | .result r => out.take 4 = [0x01, 0x02, 0x00, 0x21] ∧ out.length = 41 + r.payload.length ∧
          slice out 8 37 = resScalars r ∧ slice out 37 41 = (ck16 r.payload).toList.take 4 ∧ out.drop 41 = r.payload

/-- 42_tile.md R124 (derived by the spec): the Tile round trip, command by command. -/
def Obligations.TileRoundTrip : Prop :=
  ∀ (m : TileMessage) (s : State), m.payload.length ≤ 4294967295 →
    ∃ out header, exec (.tileEnc m) s = .next (s.respond (.ok (.out out))) ∧
      exec (.deframe out) s = .next (s.respond (.ok (.frame ⟨0, header, m.payload⟩))) ∧ header.length = 34 ∧
      exec (.tileDec header m.payload) s = .next (s.respond (.ok (.message (.tile m))))

/-- 43_activation.md R135 (derived by the spec): the Activation round trip, command by command. -/
def Obligations.ActivationRoundTrip : Prop :=
  ∀ (m : ActivationMessage) (s : State), m.payload.length ≤ 4294967295 →
    ∃ out header, exec (.actEnc m) s = .next (s.respond (.ok (.out out))) ∧
      exec (.deframe out) s = .next (s.respond (.ok (.frame ⟨1, header, m.payload⟩))) ∧ header.length = 48 ∧
      exec (.actDec header m.payload) s = .next (s.respond (.ok (.message (.activation m))))

/-- 44_result.md R146 (derived by the spec): the Result round trip, command by command. -/
def Obligations.ResultRoundTrip : Prop :=
  ∀ (m : ResultMessage) (s : State), m.payload.length ≤ 4294967295 →
    ∃ out header, exec (.resEnc m) s = .next (s.respond (.ok (.out out))) ∧
      exec (.deframe out) s = .next (s.respond (.ok (.frame ⟨2, header, m.payload⟩))) ∧ header.length = 33 ∧
      exec (.resDec header m.payload) s = .next (s.respond (.ok (.message (.result m))))

/-- 45_flows_and_properties.md R155: for every message value of any kind whose payload can be framed, ENCODE is OK, and
DECODE of its output, on any state, is OK and returns an equal message value. -/
def Obligations.DecodeOfEncodeReturnsTheMessage : Prop :=
  ∀ m : Message, m.payload.length ≤ 4294967295 →
    ∃ out, (∀ s : State, exec (encodeInstr m) s = .next (s.respond (.ok (.out out)))) ∧
      ∀ s : State, ∃ f : Frame, execItem (.wire out) s =
        .next (((s.respond (.ok (.frame f))).respond (.ok (.message m))).conclude (.response (.ok (.message m))))

/-- 45_flows_and_properties.md R159 (derived by the spec): each decoder refuses every header of another length, naming
its own, and a message frame whose type byte is changed to another assigned type fails DECODE with BadHeaderSize. -/
def Obligations.WrongHeaderLengthIsRefused : Prop :=
  (∀ (header body : Bytes) (s : State),
    (header.length ≠ 34 → exec (.tileDec header body) s = .next (s.respond (.error (.badHeaderSize 34)))) ∧
    (header.length ≠ 48 → exec (.actDec header body) s = .next (s.respond (.error (.badHeaderSize 48)))) ∧
    (header.length ≠ 33 → exec (.resDec header body) s = .next (s.respond (.error (.badHeaderSize 33))))) ∧
  (∀ (m : Message) (out : Bytes) (t : U8) (s : State),
    exec (encodeInstr m) s = .next (s.respond (.ok (.out out))) → t.toNat < 3 → t ≠ m.mtype →
    ∃ (f : Frame) (n : U16), n.toNat ≠ m.headerLength ∧ execItem (.wire (out.set 1 t)) s =
      .next (((s.respond (.ok (.frame f))).respond (.error (.badHeaderSize n))).conclude
        (.response (.error (.badHeaderSize n)))))

/-- 45_flows_and_properties.md R153 (the spec's decision D9): no decoder verifies the tag. Whatever scalars, tag and
payload bytes replace those of an encoded frame, envelope and length kept, DECODE succeeds with the changed message. -/
def Obligations.CorruptionIsNotDetected : Prop :=
  ∀ (m m' : Message) (out newTag : Bytes) (s : State),
    exec (encodeInstr m) s = .next (s.respond (.ok (.out out))) →
    m'.mtype = m.mtype → m'.payload.length = m.payload.length → newTag.length = m.tagLength →
    ∃ f : Frame, execItem (.wire (out.take 8 ++ m'.scalars ++ newTag ++ m'.payload)) s =
      .next (((s.respond (.ok (.frame f))).respond (.ok (.message m'))).conclude (.response (.ok (.message m'))))

/-- 45_flows_and_properties.md R160 (derived by the spec): frames of one kind with equal payloads carry equal tag bytes,
whatever the scalar fields and the states they were encoded in. -/
def Obligations.TagDependsOnThePayloadAlone : Prop :=
  ∀ (m m' : Message) (out out' : Bytes) (s s' : State),
    m'.mtype = m.mtype → m'.payload = m.payload →
    exec (encodeInstr m) s = .next (s.respond (.ok (.out out))) →
    exec (encodeInstr m') s' = .next (s'.respond (.ok (.out out'))) →
    slice out' (8 + m.headerLength - m.tagLength) (8 + m.headerLength) =
      slice out (8 + m.headerLength - m.tagLength) (8 + m.headerLength)

/-- 45_flows_and_properties.md R154 (derived by the spec): the host's own comparison of the tag with a digest, on every
header of the length its decoder accepts: header[26:34], header[32:48] or header[29:33] against the digest's first 8, 16
or 4 bytes. On a frame an encoder emitted, with a CKSUM of the body, it succeeds, for every HASH. -/
def Obligations.HostCanCheckTheTag : Prop :=
  (∀ (header : Bytes) (d : Vector Byte 16),
    (header.length = 34 → hostIntegrityCheck 0 header d = some (decide (slice header 26 34 = d.toList.take 8))) ∧
    (header.length = 48 → hostIntegrityCheck 1 header d = some (decide (slice header 32 48 = d.toList))) ∧
    (header.length = 33 → hostIntegrityCheck 2 header d = some (decide (slice header 29 33 = d.toList.take 4)))) ∧
  ∀ (m : Message) (out : Bytes) (f : Frame) (d : Vector Byte 16) (s : State),
    exec (encodeInstr m) s = .next (s.respond (.ok (.out out))) →
    exec (.deframe out) s = .next (s.respond (.ok (.frame f))) →
    exec (.cksum f.body) s = .next (s.respond (.ok (.digest d))) →
    hostIntegrityCheck f.mtype f.header d = some true

/-- 30_encoding.md R65 (the spec's decision D2): a command whose op is 0x9 to 0xF, whatever its operands, gets IllegalOp,
code 6, no result field, no other effect; so do the three reserved rows. -/
def Obligations.ReservedOpsAnswerIllegalOp : Prop :=
  (Response.error .illegalOp).status = 6 ∧ (Response.error .illegalOp).results = none ∧
  (∀ (c : Command) (s : State), 9 ≤ c.op.toNat →
    exec (decodeCommand c) s = .next (s.respond (.error .illegalOp))) ∧
  (∀ s : State, exec .reserved9 s = .next (s.respond (.error .illegalOp))) ∧
  (∀ (op : BitVec 4) (s : State), exec (.reservedAB op) s = .next (s.respond (.error .illegalOp))) ∧
  (∀ (op : BitVec 4) (s : State), exec (.reservedCF op) s = .next (s.respond (.error .illegalOp)))

/-- 30_encoding.md R68, R74 and 45_flows_and_properties.md R151: a frame of message type 0 arrives. Too few bytes:
IncompleteFrame. A header of another length than 34: DEFRAME's parts, then BadHeaderSize(34). Else DEFRAME's parts, then
the Tile message. One step for the two commands is the model's choice (log 8). -/
def Obligations.TileFrameIsDecoded : Prop :=
  ∀ (H : U16) (B : U32) (rest : Bytes) (s : State),
    (rest.length < H.toNat + B.toNat → exec (.tileMessage H B rest) s =
      .next ((s.respond (.error .incompleteFrame)).conclude (.response (.error .incompleteFrame)))) ∧
    (H.toNat + B.toNat ≤ rest.length → H.toNat ≠ 34 → exec (.tileMessage H B rest) s =
      .next (((s.respond (.ok (.frame ⟨0, rest.take H.toNat, slice rest H.toNat (H.toNat + B.toNat)⟩))).respond
        (.error (.badHeaderSize 34))).conclude (.response (.error (.badHeaderSize 34))))) ∧
    (∀ (m : TileMessage) (anyTag trailing : Bytes), anyTag.length = 8 → m.payload.length = B.toNat → H.toNat = 34 →
      rest = tileScalars m ++ anyTag ++ m.payload ++ trailing → exec (.tileMessage H B rest) s =
      .next (((s.respond (.ok (.frame ⟨0, tileScalars m ++ anyTag, m.payload⟩))).respond
        (.ok (.message (.tile m)))).conclude (.response (.ok (.message (.tile m))))))

/-- 30_encoding.md R69, R74 and 45_flows_and_properties.md R151: a frame of message type 1 arrives; as for Tile, with 48
and 16 (the spec's decision D7; one step for two commands: log 8). -/
def Obligations.ActivationFrameIsDecoded : Prop :=
  ∀ (H : U16) (B : U32) (rest : Bytes) (s : State),
    (rest.length < H.toNat + B.toNat → exec (.activationMessage H B rest) s =
      .next ((s.respond (.error .incompleteFrame)).conclude (.response (.error .incompleteFrame)))) ∧
    (H.toNat + B.toNat ≤ rest.length → H.toNat ≠ 48 → exec (.activationMessage H B rest) s =
      .next (((s.respond (.ok (.frame ⟨1, rest.take H.toNat, slice rest H.toNat (H.toNat + B.toNat)⟩))).respond
        (.error (.badHeaderSize 48))).conclude (.response (.error (.badHeaderSize 48))))) ∧
    (∀ (m : ActivationMessage) (anyTag trailing : Bytes), anyTag.length = 16 → m.payload.length = B.toNat →
      H.toNat = 48 → rest = actScalars m ++ anyTag ++ m.payload ++ trailing → exec (.activationMessage H B rest) s =
      .next (((s.respond (.ok (.frame ⟨1, actScalars m ++ anyTag, m.payload⟩))).respond
        (.ok (.message (.activation m)))).conclude (.response (.ok (.message (.activation m))))))

/-- 30_encoding.md R70, R74 and 45_flows_and_properties.md R151: a frame of message type 2 arrives; as for Tile, with 33
and 4 (one step for two commands: log 8). -/
def Obligations.ResultFrameIsDecoded : Prop :=
  ∀ (H : U16) (B : U32) (rest : Bytes) (s : State),
    (rest.length < H.toNat + B.toNat → exec (.resultMessage H B rest) s =
      .next ((s.respond (.error .incompleteFrame)).conclude (.response (.error .incompleteFrame)))) ∧
    (H.toNat + B.toNat ≤ rest.length → H.toNat ≠ 33 → exec (.resultMessage H B rest) s =
      .next (((s.respond (.ok (.frame ⟨2, rest.take H.toNat, slice rest H.toNat (H.toNat + B.toNat)⟩))).respond
        (.error (.badHeaderSize 33))).conclude (.response (.error (.badHeaderSize 33))))) ∧
    (∀ (m : ResultMessage) (anyTag trailing : Bytes), anyTag.length = 4 → m.payload.length = B.toNat →
      H.toNat = 33 → rest = resScalars m ++ anyTag ++ m.payload ++ trailing → exec (.resultMessage H B rest) s =
      .next (((s.respond (.ok (.frame ⟨2, resScalars m ++ anyTag, m.payload⟩))).respond
        (.ok (.message (.result m)))).conclude (.response (.ok (.message (.result m))))))

/-- 45_flows_and_properties.md R152, R151 (the spec's decision D19; the record of outcomes is the model's, log 9): DECODE
of a frame of type 3 to 255 is DEFRAME's OK and UnsupportedType, and of a buffer DEFRAME refuses (under 8 bytes, another
version, or of any type fewer bytes than declared) that one error. -/
def Obligations.DecodeWithoutACodecEndsAtDeframe : Prop :=
  (∀ (f : Frame) (trailing : Bytes) (s : State), f.Fits → 3 ≤ f.mtype.toNat →
    execItem (.wire (frameBytes f ++ trailing)) s =
      .next ((s.respond (.ok (.frame f))).conclude (.unsupportedType f.mtype))) ∧
  (∀ (buf : Bytes) (s : State), buf.length < 8 → execItem (.wire buf) s =
    .next ((s.respond (.error .shortFrame)).conclude (.response (.error .shortFrame)))) ∧
  (∀ (buf : Bytes) (s : State), 8 ≤ buf.length → buf.getD 0 0 ≠ 1 → execItem (.wire buf) s =
    .next ((s.respond (.error .versionMismatch)).conclude (.response (.error .versionMismatch)))) ∧
  (∀ (buf : Bytes) (s : State), 8 ≤ buf.length → buf.getD 0 0 = 1 →
    buf.length < 8 + declaredHeader buf + declaredBody buf → execItem (.wire buf) s =
    .next ((s.respond (.error .incompleteFrame)).conclude (.response (.error .incompleteFrame))))

/-- 45_flows_and_properties.md R151: DECODE is DEFRAME and then the decode command the returned message type selects,
each as the command alone would run on the state the one before it left. -/
def Obligations.DecodeIsDeframeThenTheSelectedDecoder : Prop :=
  ∀ (buf : Bytes) (f : Frame) (decoder : Bytes → Bytes → Instr) (s : State) (r : Response),
    exec (.deframe buf) s = .next (s.respond (.ok (.frame f))) → decoderFor f.mtype = some decoder →
    exec (decoder f.header f.body) (s.respond (.ok (.frame f))) =
      .next ((s.respond (.ok (.frame f))).respond r) →
    execItem (.wire buf) s = .next (((s.respond (.ok (.frame f))).respond r).conclude (.response r))

/-- 10_state.md R27: a command's response is a function of its op and operand fields alone, and the response is all that
a command leaves: no earlier command, no other unit, no time. -/
def Obligations.ResponseIsAFunctionOfTheCommand : Prop :=
  ∀ c : Command, ∃ r : Response, ∀ s : State, exec (decodeCommand c) s = .next (s.respond r)

/-- 20_memory.md R46, R47 and 70_reset_and_hazards.md R214: every instruction, in every state, answers a next state. It
adds at least one response and possibly a DECODE outcome, the same in every state, and leaves the schedule, the commands
in flight, the active unit and everything recorded before as they were; no read leaves its buffer. -/
def Obligations.EveryInstructionOnlyRecords : Prop :=
  ∀ i : Instr, ∃ (rs : List Response) (os : List DecodeOutcome), rs ≠ [] ∧
    ∀ s : State, exec i s = .next (s.record rs os)

/-- 60_exceptions.md R173 (derived by the spec): which command ends with which status, exactly when. The status numbers are
R171's (the spec's decision D3, log 12), the op numbers R62's, and that the ops from 9 on answer IllegalOp is R65 (both
the spec's decision D2). -/
def Obligations.StatusTable : Prop :=
  ∀ (c : Command) (s : State) (r : Response), exec (decodeCommand c) s = .next (s.respond r) →
    (c.op = 0x0 → r.status = 0) ∧
    (c.op = 0x1 → r.status = if c.header.length ≤ 65535 ∧ c.body.length ≤ 4294967295 then 0 else 5) ∧
    (c.op = 0x2 → r.status = if c.buf.length < 8 then 1 else if c.buf.getD 0 0 ≠ 1 then 2
      else if c.buf.length < 8 + declaredHeader c.buf + declaredBody c.buf then 3 else 0) ∧
    (c.op = 0x3 ∨ c.op = 0x5 ∨ c.op = 0x7 → r.status = if c.payload.length ≤ 4294967295 then 0 else 5) ∧
    (c.op = 0x4 → r.status = if c.header.length = 34 then 0 else 4) ∧
    (c.op = 0x6 → r.status = if c.header.length = 48 then 0 else 4) ∧
    (c.op = 0x8 → r.status = if c.header.length = 33 then 0 else 4) ∧
    (9 ≤ c.op.toNat → r.status = 6)

/-- 60_exceptions.md R171, R172, R176 (the numbers are the spec's decision D3): the six error kinds have distinct codes,
7 is never produced, status 0 is OK and it alone has results, status 4 alone has the expected length. -/
def Obligations.StatusCodesTellTheOutcome : Prop :=
  (∀ e e' : Error, e.code = e'.code → e = e' ∨ ∃ n n', e = .badHeaderSize n ∧ e' = .badHeaderSize n') ∧
  (∀ r : Response, r.status ≠ 7 ∧ (r.status = 0 ↔ r.results.isSome = true) ∧
    (r.status = 4 ↔ r.expected.isSome = true))

/-- 70_reset_and_hazards.md R214 and the model's schedule (log 5): a run move of a unit executes what the unit has in
progress, which leaves it, as the decoded instruction; a buffer the decoder rejects goes through DECODE. With no move
scheduled the oldest item is executed so. That a run move of an idle unit, and a step with nothing left to do, change
nothing else is the model's choice (log 17), as is that the oldest goes first (log 5). -/
def Obligations.StepRunsTheDecodedInstruction : Prop :=
  (∀ (s : State) (u : Nat) (item : Item) (rest : List Move),
    s.schedule = .run u :: rest → unitExists u = true → firstHeld u s.held = some item →
    (∀ i : Instr, decodeItem item = .ok i →
      step s = exec i { s with schedule := rest, held := dropFirstHeld u s.held, active := u }) ∧
    (∀ (buf : Bytes) (why : WireReject), item = .wire buf → decodeWire buf = .error why →
      step s = decodeFlow buf { s with schedule := rest, held := dropFirstHeld u s.held, active := u })) ∧
  (∀ (s : State) (u : Nat) (item : Item) (rest : List (Nat × Item)),
    s.schedule = [] → s.held = (u, item) :: rest → unitExists u = true →
    (∀ i : Instr, decodeItem item = .ok i → step s = exec i { s with held := rest, active := u }) ∧
    (∀ (buf : Bytes) (why : WireReject), item = .wire buf → decodeWire buf = .error why →
      step s = decodeFlow buf { s with held := rest, active := u })) ∧
  (∀ (s : State) (u : Nat) (rest : List Move),
    s.schedule = .run u :: rest → unitExists u = true → firstHeld u s.held = none →
    step s = .next { s with schedule := rest }) ∧
  (∀ s : State, s.schedule = [] → s.held = [] → step s = .next s)

/-- The model's placing of an opcode-table word (log 19): from any state the very next step is unit 0 executing the
instruction the decoder reads from the word, and what else was to come is as before. -/
def Obligations.TableWordRunsNext : Prop :=
  ∀ (s : State) (nbits w : Nat) (i : Instr), decodeTableWord nbits w = some i →
    step (s.withFetchWord nbits w) = exec i { s with active := 0 }

/-- 70_reset_and_hazards.md R203: the first command after reset may be any, and it gets the responses it gets at any
other time, whatever has happened before. The placing of the item is the model's (log 19), and so are the empty record
and the active unit 0 of the reset state (log 5). -/
def Obligations.FirstCommandAfterResetAnswersAsAlways : Prop :=
  ∀ item : Item, ∃ (rs : List Response) (os : List DecodeOutcome), rs ≠ [] ∧
    step (State.reset.withFetchItem item) = .next (State.reset.record rs os) ∧
    ∀ s : State, step (s.withFetchItem item) = .next ({ s with active := 0 }.record rs os)

/-- 60_exceptions.md R188 and 70_reset_and_hazards.md R214, in the model's moves (log 5, log 7): an item handed to an idle
unit and run is executed there, the two steps complete, and the unit is idle again. -/
def Obligations.IssueThenRunExecutes : Prop :=
  ∀ (s : State) (u : Nat) (item : Item) (rest : List Move), unitExists u = true → (s.view u).held = [] →
    ∃ t, stepTwice { s with schedule := .issue u item :: .run u :: rest } = .next t ∧
      execItem item { s with schedule := rest, active := u } = .next t ∧
      (t.view u).held = [] ∧ t.schedule = rest

/-- 70_reset_and_hazards.md R201 (the spec's decision D16): a reset drops the command in progress without any response
and does nothing else; a reset of an idle unit changes nothing. That a reset can come between a command's arrival and its
execution is the model's reading (log 7), and that commands waiting at the port survive it, the tail of the last clause,
is the model's choice (log 6). -/
def Obligations.ResetDropsTheCommandInProgress : Prop :=
  (∀ (s : State) (u : Nat) (item : Item) (rest : List Move), unitExists u = true → (s.view u).held = [] →
    stepTwice { s with schedule := .issue u item :: .reset u :: rest } = .next { s with schedule := rest }) ∧
  (∀ (s : State) (u : Nat) (rest : List Move), unitExists u = true → (s.view u).held = [] →
    step { s with schedule := .reset u :: rest } = .next { s with schedule := rest }) ∧
  (∀ (s : State) (u : Nat) (rest : List Move), unitExists u = true →
    ∃ t, step { s with schedule := .reset u :: rest } = .next t ∧ t.schedule = rest ∧
      t.view u = { s.view u with held := (s.view u).held.tail } ∧ ∀ v, v ≠ u → t.view v = s.view v)

/-- 60_exceptions.md R188, 93_implementation_defined.md U14 (log 6): a further command to a busy unit waits behind the one
in progress or is refused by the port; either way nothing else changes and nothing is answered. For every answer of the
open port constant. -/
def Obligations.BusyUnitKeepsItsCommand : Prop :=
  ∀ (s : State) (u : Nat) (item current : Item) (rest : List Move), unitExists u = true →
    s.schedule = .issue u item :: rest → firstHeld u s.held = some current →
    ∃ t, step s = .next t ∧ firstHeld u t.held = some current ∧
      (t = { s with schedule := rest } ∨ t = { s with schedule := rest, held := s.held ++ [(u, item)] })

/-- 60_exceptions.md R188, 20_memory.md R51: units share nothing. A move of one unit leaves what every other unit holds,
has answered and has concluded as it was. -/
def Obligations.StepLeavesOtherUnitsAlone : Prop :=
  ∀ (s s' : State) (m : Move) (rest : List Move) (v : Nat),
    s.nextMove = some (m, rest) → step s = .next s' → v ≠ m.unit → s'.schedule = rest ∧ s'.view v = s.view v

/-- 10_state.md R27, 60_exceptions.md R188: what a move does to its unit depends on that unit alone. Two states that agree
on the unit, and on nothing else, agree on it after the move. For an issue to a busy unit this rests on the model's port
(log 6), which R188 leaves open: it answers by the number of the unit's commands, and they wait in order. -/
def Obligations.MoveDependsOnItsOwnUnitAlone : Prop :=
  ∀ (s t s' t' : State) (m : Move) (rest rest' : List Move),
    s.nextMove = some (m, rest) → t.nextMove = some (m, rest') → s.view m.unit = t.view m.unit →
    step s = .next s' → step t = .next t' → s'.view m.unit = t'.view m.unit

/-- 20_memory.md R51: no interleaving matters. Moves of two different units, made in either order, complete and leave every
unit the same; and so do two steps of a schedule that names them in either order. The schedule is the model's (log 5), and for
an issue to a busy unit so is the port (log 6); where the build has not both units (log 4), both orders stop. -/
def Obligations.MovesOfDifferentUnitsCommute : Prop :=
  (∀ (s : State) (m₁ m₂ : Move), m₁.unit ≠ m₂.unit →
    ∃ a b c d, makeMove m₁ s = .next a ∧ makeMove m₂ a = .next b ∧
      makeMove m₂ s = .next c ∧ makeMove m₁ c = .next d ∧
      b.schedule = d.schedule ∧ ∀ u, b.view u = d.view u) ∧
  (∀ (s : State) (m₁ m₂ : Move) (rest : List Move), m₁.unit ≠ m₂.unit →
    if unitExists m₁.unit = true ∧ unitExists m₂.unit = true then
      ∃ a b, stepTwice { s with schedule := m₁ :: m₂ :: rest } = .next a ∧
        stepTwice { s with schedule := m₂ :: m₁ :: rest } = .next b ∧
        a.schedule = b.schedule ∧ ∀ u, a.view u = b.view u
    else stepTwice { s with schedule := m₁ :: m₂ :: rest } = .fault .noSuchUnit ∧
      stepTwice { s with schedule := m₂ :: m₁ :: rest } = .fault .noSuchUnit)

/-- 20_memory.md R51: "each response equals `exec` of its own command". The responses and outcomes a run move adds are
those its own item gets on any other state, and they are tagged with the unit that ran. -/
def Obligations.ResponsesAreThoseOfTheUnitsOwnItem : Prop :=
  ∀ (s s' t : State) (u : Nat) (item : Item) (rest : List Move),
    s.schedule = .run u :: rest → firstHeld u s.held = some item → step s = .next s' →
    ∃ (rs : List Response) (os : List DecodeOutcome), execItem item t = .next (t.record rs os) ∧
      s'.responses = s.responses ++ rs.map (fun r => (u, r)) ∧
      s'.outcomes = s.outcomes ++ os.map (fun o => (u, o)) ∧
      s'.held = dropFirstHeld u s.held

/-- 41_frame.md R102, 30_encoding.md R75, 60_exceptions.md R172, 45_flows_and_properties.md R152: from every state in which
everything on record is legal (every emitted frame the exact bytes of a frame whose lengths fit, every BadHeaderSize an
accepted length, every DECODE outcome a message, a decode error or an unassigned type) and of an existing unit, every
step leads to such a state. -/
def Obligations.StepKeepsTheRecordLegal : Prop :=
  ∀ s s' : State, s.Inv → step s = .next s' → s'.Inv

/-- 10_state.md R34: after reset no command is in flight and the version constant is 1; the record is legal. That the
record and the schedule are empty and the active unit is 0 is the model's choice (log 5). -/
def Obligations.ResetLeavesNothingInFlight : Prop :=
  State.reset.Inv ∧ State.reset.held = [] ∧ State.reset.schedule = [] ∧ State.reset.active = 0 ∧ Config.VERSION = 1 ∧
    ∀ u, State.reset.view u = ⟨[], [], []⟩

/-- 70_reset_and_hazards.md R213, R215: responses are final. A step adds to the record of responses and of outcomes and
never changes or removes an entry. -/
def Obligations.RecordsOnlyGrow : Prop :=
  ∀ s s' : State, step s = .next s' → s.responses <+: s'.responses ∧ s.outcomes <+: s'.outcomes

/-- 70_reset_and_hazards.md R214, 20_memory.md R47, 60_exceptions.md R188: nothing hangs. A step is a next state unless the
next move names a unit the build does not have, N_UNITS or above (log 4); then it is that fault. -/
def Obligations.StepStopsOnlyForAnAbsentUnit : Prop :=
  ∀ s : State,
    ((∃ s', step s = .next s') ∨ step s = .fault .noSuchUnit) ∧
    (step s = .fault .noSuchUnit ↔ ∃ m rest, s.nextMove = some (m, rest) ∧ Config.nUnits ≤ m.unit)

/-- 70_reset_and_hazards.md R214: termination, with no fairness assumed. From every state in which the units that hold items
and the units the schedule names exist, every run of at least two steps per scheduled move and one per held item completes
in a state with no move left and nothing in flight. What the items are answered is not said here (it is in
ResponsesAreThoseOfTheUnitsOwnItem and EveryOutstandingCommandGetsItsOneResponse). The schedule is the model's (log 5), and
so is the port, which may refuse an item a scheduled move issues to a busy unit (log 6). -/
def Obligations.EveryRunEndsWithNothingInFlight : Prop :=
  ∀ s : State, (∀ m ∈ s.schedule, unitExists m.unit = true) → (∀ p ∈ s.held, unitExists p.1 = true) →
    ∀ n, 2 * s.schedule.length + s.held.length ≤ n →
      ∃ t : State, Sys2Proof.core.run n s = .next t ∧ t.schedule = [] ∧ t.held = []

/-- 70_reset_and_hazards.md R214, R215: every command produces exactly one response. When no move is scheduled, one step per
outstanding item leaves nothing in flight, and the record has gained what each item gets, in order and under its unit:
one response for a command, the one it gets in every state. That the oldest goes first is the model's choice (log 5); a
buffer that goes through DECODE gets one response or two (log 8). -/
def Obligations.EveryOutstandingCommandGetsItsOneResponse : Prop :=
  (∀ s : State, s.schedule = [] → (∀ p ∈ s.held, unitExists p.1 = true) →
    ∃ t : State, Sys2Proof.core.run s.held.length s = .next t ∧ t.schedule = [] ∧ t.held = [] ∧
      t.responses = s.responses ++ s.held.flatMap (fun p => (responsesOf p.2).map fun r => (p.1, r))) ∧
  (∀ c : Command, ∃ r, responsesOf (.command c) = [r] ∧ ∀ s : State, exec (decodeCommand c) s = .next (s.respond r)) ∧
  (∀ buf : Bytes, (responsesOf (.wire buf)).length = 1 ∨ (responsesOf (.wire buf)).length = 2)
end

