-- ==== Sys2Proof/Laws/Bytes.lean ====
section
/-! SUPPORT. Big-endian conversion, MemRead and slices. -/

namespace Sys2Proof.Laws

open Machine

@[simp] theorem be_length (w : Nat) (v : BitVec w) : (be w v).length = w / 8 := by
  simp [be]

theorem be_eight (v : U8) : be 8 v = [v] := by
  simp [be, List.range_succ]

theorem be_sixteen (v : U16) : be 16 v = [v.extractLsb' 8 8, v.extractLsb' 0 8] := by
  simp [be, List.range_succ]

theorem be_thirtytwo (v : U32) :
    be 32 v = [v.extractLsb' 24 8, v.extractLsb' 16 8, v.extractLsb' 8 8, v.extractLsb' 0 8] := by
  simp [be, List.range_succ]

theorem be_sixtyfour (v : U64) :
    be 64 v = [v.extractLsb' 56 8, v.extractLsb' 48 8, v.extractLsb' 40 8, v.extractLsb' 32 8,
      v.extractLsb' 24 8, v.extractLsb' 16 8, v.extractLsb' 8 8, v.extractLsb' 0 8] := by
  simp [be, List.range_succ]

theorem fromBeNat_be_eight (v : U8) : fromBeNat (be 8 v) = v.toNat := by
  simp [be_eight, fromBeNat]

theorem fromBeNat_be_sixteen (v : U16) : fromBeNat (be 16 v) = v.toNat := by
  have := v.isLt
  simp [be_sixteen, fromBeNat, Nat.shiftRight_eq_div_pow]
  omega

theorem fromBeNat_be_thirtytwo (v : U32) : fromBeNat (be 32 v) = v.toNat := by
  have := v.isLt
  simp [be_thirtytwo, fromBeNat, Nat.shiftRight_eq_div_pow]
  omega

theorem fromBeNat_be_sixtyfour (v : U64) : fromBeNat (be 64 v) = v.toNat := by
  have := v.isLt
  simp [be_sixtyfour, fromBeNat, Nat.shiftRight_eq_div_pow]
  omega

@[simp] theorem fromBe_be_eight (v : U8) : fromBe 8 (be 8 v) = v := by
  simp [fromBe, fromBeNat_be_eight]

@[simp] theorem fromBe_be_sixteen (v : U16) : fromBe 16 (be 16 v) = v := by
  simp [fromBe, fromBeNat_be_sixteen]

@[simp] theorem fromBe_be_thirtytwo (v : U32) : fromBe 32 (be 32 v) = v := by
  simp [fromBe, fromBeNat_be_thirtytwo]

@[simp] theorem fromBe_be_sixtyfour (v : U64) : fromBe 64 (be 64 v) = v := by
  simp [fromBe, fromBeNat_be_sixtyfour]

theorem be_fromBe_eight (a : Byte) : be 8 (fromBe 8 [a]) = [a] := by
  simp [be_eight, fromBe, fromBeNat]

theorem be_fromBe_sixteen (a b : Byte) : be 16 (fromBe 16 [a, b]) = [a, b] := by
  have := a.isLt
  have := b.isLt
  simp only [be_sixteen, fromBe, fromBeNat, List.foldl, List.cons.injEq, and_true]
  refine ⟨?_, ?_⟩ <;> apply BitVec.eq_of_toNat_eq <;>
    simp [Nat.shiftRight_eq_div_pow] <;> omega

theorem be_fromBe_thirtytwo (a b c d : Byte) : be 32 (fromBe 32 [a, b, c, d]) = [a, b, c, d] := by
  have := a.isLt
  have := b.isLt
  have := c.isLt
  have := d.isLt
  simp only [be_thirtytwo, fromBe, fromBeNat, List.foldl, List.cons.injEq, and_true]
  refine ⟨?_, ?_, ?_, ?_⟩ <;> apply BitVec.eq_of_toNat_eq <;>
    simp [Nat.shiftRight_eq_div_pow] <;> omega

theorem be_fromBe_sixtyfour (a b c d e f g h : Byte) :
    be 64 (fromBe 64 [a, b, c, d, e, f, g, h]) = [a, b, c, d, e, f, g, h] := by
  have := a.isLt
  have := b.isLt
  have := c.isLt
  have := d.isLt
  have := e.isLt
  have := f.isLt
  have := g.isLt
  have := h.isLt
  simp only [be_sixtyfour, fromBe, fromBeNat, List.foldl, List.cons.injEq, and_true]
  refine ⟨?_, ?_, ?_, ?_, ?_, ?_, ?_, ?_⟩ <;> apply BitVec.eq_of_toNat_eq <;>
    simp [Nat.shiftRight_eq_div_pow] <;> omega

/-- A value read from bytes is smaller than 256 to their number. -/
theorem fromBeNat_lt (b : Bytes) : fromBeNat b < 256 ^ b.length := by
  have main : ∀ (b : Bytes) (acc : Nat),
      b.foldl (fun acc x => acc * 256 + x.toNat) acc < (acc + 1) * 256 ^ b.length := by
    intro b
    induction b with
    | nil => intro acc; simp
    | cons x xs ih =>
      intro acc
      have hx := x.isLt
      calc _ < (acc * 256 + x.toNat + 1) * 256 ^ xs.length := ih _
        _ ≤ ((acc + 1) * 256) * 256 ^ xs.length := Nat.mul_le_mul_right _ (by omega)
        _ = (acc + 1) * 256 ^ (xs.length + 1) := by ring
  simpa [fromBeNat] using main b 0

/-- MemRead inside its buffer is the slice (00_scope.md R14, R12). -/
theorem memRead_of_le {b : Bytes} {off n : Nat} (h : off + n ≤ b.length) :
    memRead b off n = some (slice b off (off + n)) := by
  simp [memRead, h, slice]

/-- What MemRead answers has the length asked for and lies inside the buffer. -/
theorem memRead_eq_some {b : Bytes} {off n : Nat} {x : Bytes} (h : memRead b off n = some x) :
    off + n ≤ b.length ∧ x = slice b off (off + n) ∧ x.length = n := by
  unfold memRead at h
  split at h
  · cases h
    refine ⟨‹_›, by simp [slice], by simp; omega⟩
  · cases h

/-- A field read inside its buffer is the slice read big-endian (20_memory.md R50). -/
theorem readBe_of_le {w : Nat} {b : Bytes} {off : Nat} (h : off + w / 8 ≤ b.length) :
    readBe w b off = some (fromBe w (slice b off (off + w / 8))) := by
  simp [readBe, memRead_of_le h]

@[simp] theorem slice_length (b : Bytes) (i j : Nat) : (slice b i j).length = min (j - i) (b.length - i) := by
  simp [slice]

/-- A slice of a concatenation that begins where the first part ends. -/
theorem slice_append_right {a b : Bytes} {i j : Nat} (h : a.length ≤ i) :
    slice (a ++ b) i j = slice b (i - a.length) (j - a.length) := by
  simp only [slice, List.drop_append, List.drop_eq_nil_of_le h, List.nil_append]
  congr 1
  omega

/-- A slice of a concatenation that ends inside the first part. -/
theorem slice_append_left {a b : Bytes} {i j : Nat} (h : j ≤ a.length) :
    slice (a ++ b) i j = slice a i j := by
  simp only [slice, List.drop_append, List.take_append]
  simp
  omega

/-- A slice that is exactly the first part of a concatenation. -/
theorem slice_append_exact {a b : Bytes} {j : Nat} (h : a.length = j) : slice (a ++ b) 0 j = a := by
  simp [slice, ← h]

theorem slice_full {a : Bytes} {j : Nat} (h : a.length = j) : slice a 0 j = a := by
  simp [slice, ← h]

@[simp] theorem envelope_length (mt : U8) (h : U16) (b : U32) : (envelope mt h b).length = 8 := by
  simp [envelope]

theorem declaredHeader_envelope (mt : U8) (h : U16) (b : U32) (rest : Bytes) :
    declaredHeader (envelope mt h b ++ rest) = h.toNat := by
  rw [← fromBeNat_be_sixteen h]
  simp [declaredHeader, envelope, slice, be_sixteen, be_thirtytwo]

theorem declaredBody_envelope (mt : U8) (h : U16) (b : U32) (rest : Bytes) :
    declaredBody (envelope mt h b ++ rest) = b.toNat := by
  rw [← fromBeNat_be_thirtytwo b]
  simp [declaredBody, envelope, slice, be_sixteen, be_thirtytwo]

end Sys2Proof.Laws
end

