-- ==== Sys2Proof/Laws/State.lean ====
section
/-! SUPPORT. One lemma per field and update of State. -/

namespace Sys2Proof.Laws

open Machine

variable (s : State) (r : Response) (o : DecodeOutcome) (u : Nat) (item : Item) (rs : List Response)
  (os : List DecodeOutcome)

@[simp] theorem respond_schedule : (s.respond r).schedule = s.schedule := rfl
@[simp] theorem respond_held : (s.respond r).held = s.held := rfl
@[simp] theorem respond_active : (s.respond r).active = s.active := rfl
@[simp] theorem respond_responses : (s.respond r).responses = s.responses ++ [(s.active, r)] := rfl
@[simp] theorem respond_outcomes : (s.respond r).outcomes = s.outcomes := rfl

@[simp] theorem conclude_schedule : (s.conclude o).schedule = s.schedule := rfl
@[simp] theorem conclude_held : (s.conclude o).held = s.held := rfl
@[simp] theorem conclude_active : (s.conclude o).active = s.active := rfl
@[simp] theorem conclude_responses : (s.conclude o).responses = s.responses := rfl
@[simp] theorem conclude_outcomes : (s.conclude o).outcomes = s.outcomes ++ [(s.active, o)] := rfl

@[simp] theorem dropCurrent_schedule : (s.dropCurrent u).schedule = s.schedule := rfl
@[simp] theorem dropCurrent_held : (s.dropCurrent u).held = dropFirstHeld u s.held := rfl
@[simp] theorem dropCurrent_active : (s.dropCurrent u).active = s.active := rfl
@[simp] theorem dropCurrent_responses : (s.dropCurrent u).responses = s.responses := rfl
@[simp] theorem dropCurrent_outcomes : (s.dropCurrent u).outcomes = s.outcomes := rfl

@[simp] theorem resetUnit_eq_dropCurrent : s.resetUnit u = s.dropCurrent u := rfl

@[simp] theorem record_schedule : (s.record rs os).schedule = s.schedule := rfl
@[simp] theorem record_held : (s.record rs os).held = s.held := rfl
@[simp] theorem record_active : (s.record rs os).active = s.active := rfl
@[simp] theorem record_responses :
    (s.record rs os).responses = s.responses ++ rs.map (fun x => (s.active, x)) := rfl
@[simp] theorem record_outcomes :
    (s.record rs os).outcomes = s.outcomes ++ os.map (fun x => (s.active, x)) := rfl

@[simp] theorem withFetchItem_schedule : (s.withFetchItem item).schedule = .run 0 :: s.schedule := rfl
@[simp] theorem withFetchItem_held : (s.withFetchItem item).held = (0, item) :: s.held := rfl

theorem nextMove_of_schedule {s : State} {m : Move} {rest : List Move} (h : s.schedule = m :: rest) :
    s.nextMove = some (m, rest) := by
  simp [State.nextMove, h]

theorem nextMove_of_held {s : State} {u : Nat} {item : Item} {rest : List (Nat × Item)} (h : s.schedule = [])
    (hh : s.held = (u, item) :: rest) : s.nextMove = some (.run u, []) := by
  simp [State.nextMove, h, hh]

theorem nextMove_of_nothing {s : State} (h : s.schedule = []) (hh : s.held = []) : s.nextMove = none := by
  simp [State.nextMove, h, hh]

@[simp] theorem present_schedule : (s.present u item).schedule = s.schedule := by
  unfold State.present; split <;> rfl
@[simp] theorem present_active : (s.present u item).active = s.active := by
  unfold State.present; split <;> rfl
@[simp] theorem present_responses : (s.present u item).responses = s.responses := by
  unfold State.present; split <;> rfl
@[simp] theorem present_outcomes : (s.present u item).outcomes = s.outcomes := by
  unfold State.present; split <;> rfl

/-- A port either takes the item, behind all others, or leaves everything as it was. -/
theorem present_cases :
    s.present u item = { s with held := s.held ++ [(u, item)] } ∨
      (heldCount u s.held ≠ 0 ∧ s.present u item = s) := by
  unfold State.present
  split
  · exact .inl rfl
  · rename_i h
    simp only [Bool.or_eq_true, decide_eq_true_eq, not_or] at h
    exact .inr ⟨h.1, rfl⟩

theorem respond_eq_record : s.respond r = s.record [r] [] := by
  simp [State.respond, State.record]

theorem conclude_respond_eq_record : (s.respond r).conclude o = s.record [r] [o] := rfl

theorem conclude_respond_respond_eq_record (r' : Response) :
    ((s.respond r).respond r').conclude o = s.record [r, r'] [o] := by
  simp [State.respond, State.record, State.conclude]

/-- `unitExists u` says u < N_UNITS (00_scope.md R10). -/
theorem unitExists_iff : unitExists u = true ↔ u < Config.nUnits := by
  cases u with
  | zero => simp [unitExists, Config.nUnits]
  | succ k => simp [unitExists, Config.nUnits]

end Sys2Proof.Laws
end

