-- ==== Sys2Proof/Laws/Codec.lean ====
section
/-! SUPPORT. One lemma per shared operation of the codec: what it answers, without its reads and guards. -/

namespace Sys2Proof.Laws

open Machine

@[simp] theorem answer_some (r : Response) (s : State) : answer (some r) s = .next (s.respond r) := rfl
@[simp] theorem answer_raise (e : Error) (s : State) : answer (raise e) s = .next (s.respond (.error e)) := rfl
@[simp] theorem answer_returnWith (r : Results) (s : State) :
    answer (returnWith r) s = .next (s.respond (.ok r)) := rfl

/-- A command that answers a next state has given one response and changed nothing else. -/
theorem answer_eq_next {r : Option Response} {s t : State} (h : answer r s = .next t) :
    ∃ x, r = some x ∧ t = s.respond x := by
  cases r with
  | none => cases h
  | some x => exact ⟨x, rfl, by cases h; rfl⟩

theorem ck16_toList (b : Bytes) : (ck16 b).toList = (Config.hash b).toList.take 16 := by
  have hl : (Config.hash b).toList.length = 16 + Config.hashExtraLen := Vector.length_toList
  apply List.ext_getElem
  · simp only [Vector.length_toList, List.length_take, hl]
    omega
  · intro i h1 h2
    simp [ck16]
    rfl

@[simp] theorem tag_length {k : Nat} (b : Bytes) (h : k ≤ 16) : (tag k b).length = k := by
  simp [tag, h]

@[simp] theorem frameBytes_length (f : Frame) :
    (frameBytes f).length = 8 + f.header.length + f.body.length := by
  simp [frameBytes, Nat.add_assoc]

theorem frameResponse_of_fits {f : Frame} (h : f.Fits) : frameResponse f = some (.ok (.out (frameBytes f))) := by
  obtain ⟨h1, h2⟩ := h
  simp [frameResponse, returnWith, Nat.not_lt.mpr h1, Nat.not_lt.mpr h2]

theorem frameResponse_of_not_fits {f : Frame} (h : ¬ f.Fits) :
    frameResponse f = some (.error .lengthOverflow) := by
  have : f.header.length > Config.HLEN_MAX ∨ f.body.length > Config.BLEN_MAX := by
    simp only [Frame.Fits] at h
    omega
  simp [frameResponse, raise, this]

/-- What the message encoders share: the payload alone decides between a frame and LengthOverflow. -/
theorem encodeMessage_eq {mt : U8} {scalars : Bytes} {k : Nat} {payload : Bytes} (hs : scalars.length ≤ 32)
    (hk : k ≤ 16) :
    encodeMessage mt scalars k payload = some (if payload.length ≤ Config.BLEN_MAX then
      .ok (.out (frameBytes ⟨mt, scalars ++ tag k payload, payload⟩)) else .error .lengthOverflow) := by
  unfold encodeMessage
  by_cases h : payload.length ≤ Config.BLEN_MAX
  · rw [if_neg (Nat.not_lt.mpr h), if_pos h, frameResponse_of_fits]
    refine ⟨?_, h⟩
    simp [hk, Config.HLEN_MAX]
    omega
  · rw [if_pos (Nat.lt_of_not_le h), if_neg h]
    rfl

/-- DEFRAME without its reads (41_frame.md R105): three checks in order, then three slices. -/
theorem deframeResponse_eq (buf : Bytes) :
    deframeResponse buf = some (
      if buf.length < 8 then .error .shortFrame
      else if buf.getD 0 0 ≠ 1 then .error .versionMismatch
      else if buf.length < 8 + declaredHeader buf + declaredBody buf then .error .incompleteFrame
      else .ok (.frame ⟨buf.getD 1 0, slice buf 8 (8 + declaredHeader buf),
        slice buf (8 + declaredHeader buf) (8 + declaredHeader buf + declaredBody buf)⟩)) := by
  match buf with
  | v :: t :: h0 :: h1 :: b0 :: b1 :: b2 :: b3 :: rest =>
    have hH : fromBeNat [h0, h1] < 65536 := by simpa using fromBeNat_lt [h0, h1]
    have hB : fromBeNat [b0, b1, b2, b3] < 4294967296 := by simpa using fromBeNat_lt [b0, b1, b2, b3]
    have nH : (fromBe 16 [h0, h1]).toNat = fromBeNat [h0, h1] := by simp [fromBe, Nat.mod_eq_of_lt hH]
    have nB : (fromBe 32 [b0, b1, b2, b3]).toNat = fromBeNat [b0, b1, b2, b3] := by
      simp [fromBe, Nat.mod_eq_of_lt hB]
    have eH : declaredHeader (v :: t :: h0 :: h1 :: b0 :: b1 :: b2 :: b3 :: rest) = fromBeNat [h0, h1] := rfl
    have eB : declaredBody (v :: t :: h0 :: h1 :: b0 :: b1 :: b2 :: b3 :: rest) = fromBeNat [b0, b1, b2, b3] := rfl
    have g0 : (v :: t :: h0 :: h1 :: b0 :: b1 :: b2 :: b3 :: rest).getD 0 0 = v := rfl
    have g1 : (v :: t :: h0 :: h1 :: b0 :: b1 :: b2 :: b3 :: rest).getD 1 0 = t := rfl
    have r0 : readBe 8 (v :: t :: h0 :: h1 :: b0 :: b1 :: b2 :: b3 :: rest) 0 = some v := by
      rw [readBe_of_le (by simp)]; simp [slice, fromBe, fromBeNat]
    have r1 : readBe 8 (v :: t :: h0 :: h1 :: b0 :: b1 :: b2 :: b3 :: rest) 1 = some t := by
      rw [readBe_of_le (by simp)]; simp [slice, fromBe, fromBeNat]
    have r2 : readBe 16 (v :: t :: h0 :: h1 :: b0 :: b1 :: b2 :: b3 :: rest) 2 = some (fromBe 16 [h0, h1]) := by
      rw [readBe_of_le (by simp)]; rfl
    have r4 : readBe 32 (v :: t :: h0 :: h1 :: b0 :: b1 :: b2 :: b3 :: rest) 4
        = some (fromBe 32 [b0, b1, b2, b3]) := by
      rw [readBe_of_le (by simp)]; rfl
    have h8 : ¬ (v :: t :: h0 :: h1 :: b0 :: b1 :: b2 :: b3 :: rest).length < 8 := by simp
    rw [eH, eB, g0, g1, if_neg h8, ← nH, ← nB]
    unfold deframeResponse Config.ENV_LEN Config.VERSION
    rw [if_neg h8, r0, r1, r2, r4]
    simp only [Option.bind_eq_bind, Option.bind_some]
    generalize v :: t :: h0 :: h1 :: b0 :: b1 :: b2 :: b3 :: rest = buf
    by_cases hv : v = 1
    · rw [if_neg (not_not.mpr hv), if_neg (not_not.mpr hv)]
      by_cases hl : buf.length < 8 + (fromBe 16 [h0, h1]).toNat + (fromBe 32 [b0, b1, b2, b3]).toNat
      · rw [if_pos hl, if_pos hl]; rfl
      · rw [if_neg hl, if_neg hl, memRead_of_le (by omega), memRead_of_le (by omega)]
        rfl
    · rw [if_pos hv, if_pos hv]; rfl
  | [] | [_] | [_, _] | [_, _, _] | [_, _, _, _] | [_, _, _, _, _] | [_, _, _, _, _, _] | [_, _, _, _, _, _, _] =>
    simp [deframeResponse, raise, Config.ENV_LEN]

/-- DEFRAME of an envelope and what follows it. -/
theorem deframeResponse_envelope (mt : U8) (h : U16) (b : U32) (rest : Bytes) :
    deframeResponse (envelope mt h b ++ rest) = some (
      if rest.length < h.toNat + b.toNat then .error .incompleteFrame
      else .ok (.frame ⟨mt, rest.take h.toNat, (rest.drop h.toNat).take b.toNat⟩)) := by
  rw [deframeResponse_eq, declaredHeader_envelope, declaredBody_envelope]
  have e0 : (envelope mt h b ++ rest).getD 0 0 = 1 := rfl
  have e1 : (envelope mt h b ++ rest).getD 1 0 = mt := rfl
  rw [e0, e1, if_neg (by simp), if_neg (by simp)]
  congr 1
  rw [slice_append_right (by simp), slice_append_right (by simp)]
  by_cases hl : rest.length < h.toNat + b.toNat
  · rw [if_pos hl, if_pos (by simp; omega)]
  · rw [if_neg hl, if_neg (by simp; omega)]
    simp [slice, Nat.add_assoc]

/-- DEFRAME of the bytes of a frame whose lengths fit, whatever follows them (41_frame.md R107, R111). -/
theorem deframeResponse_frameBytes {f : Frame} (hf : f.Fits) (extra : Bytes) :
    deframeResponse (frameBytes f ++ extra) = some (.ok (.frame f)) := by
  obtain ⟨h1, h2⟩ := hf
  simp only [Config.HLEN_MAX, Config.BLEN_MAX] at h1 h2
  have e1 : (BitVec.ofNat 16 f.header.length).toNat = f.header.length := by simp; omega
  have e2 : (BitVec.ofNat 32 f.body.length).toNat = f.body.length := by simp; omega
  rw [frameBytes, List.append_assoc, List.append_assoc, deframeResponse_envelope, e1, e2, if_neg (by simp)]
  simp

@[simp] theorem tileScalars_length (m : TileMessage) : (tileScalars m).length = 26 := by simp [tileScalars]
@[simp] theorem actScalars_length (m : ActivationMessage) : (actScalars m).length = 32 := by simp [actScalars]
@[simp] theorem resScalars_length (m : ResultMessage) : (resScalars m).length = 29 := by simp [resScalars]

theorem tileEncResponse_eq (m : TileMessage) :
    tileEncResponse m = some (if m.payload.length ≤ Config.BLEN_MAX then
      .ok (.out (frameBytes ⟨Config.MT_TILE, tileScalars m ++ tag 8 m.payload, m.payload⟩))
      else .error .lengthOverflow) :=
  encodeMessage_eq (by simp) (by decide)

theorem actEncResponse_eq (m : ActivationMessage) :
    actEncResponse m = some (if m.payload.length ≤ Config.BLEN_MAX then
      .ok (.out (frameBytes ⟨Config.MT_ACT, actScalars m ++ tag 16 m.payload, m.payload⟩))
      else .error .lengthOverflow) :=
  encodeMessage_eq (by simp) (by decide)

theorem resEncResponse_eq (m : ResultMessage) :
    resEncResponse m = some (if m.payload.length ≤ Config.BLEN_MAX then
      .ok (.out (frameBytes ⟨Config.MT_RES, resScalars m ++ tag 4 m.payload, m.payload⟩))
      else .error .lengthOverflow) :=
  encodeMessage_eq (by simp) (by decide)

/-- TILE.DEC without its reads (42_tile.md R123). -/
theorem tileDecResponse_eq (header body : Bytes) :
    tileDecResponse header body = some (if header.length = 34 then
      .ok (.message (.tile ⟨fromBe 64 (slice header 0 8), fromBe 64 (slice header 8 16),
        fromBe 32 (slice header 16 20), fromBe 32 (slice header 20 24), fromBe 16 (slice header 24 26), body⟩))
      else .error (.badHeaderSize 34)) := by
  unfold tileDecResponse Config.TILE_HDR_LEN
  by_cases h : header.length = 34
  · rw [if_neg (by simp [h]), if_pos h, readBe_of_le (by simp; omega), readBe_of_le (by simp; omega),
      readBe_of_le (by simp; omega), readBe_of_le (by simp; omega), readBe_of_le (by simp; omega)]
    rfl
  · rw [if_pos h, if_neg h]; rfl

/-- ACT.DEC without its reads (43_activation.md R133). -/
theorem actDecResponse_eq (header body : Bytes) :
    actDecResponse header body = some (if header.length = 48 then
      .ok (.message (.activation ⟨fromBe 64 (slice header 0 8), fromBe 64 (slice header 8 16),
        fromBe 64 (slice header 16 24), fromBe 64 (slice header 24 32), body⟩))
      else .error (.badHeaderSize 48)) := by
  have e : Config.ACT_DEC_ACCEPT = 48 := rfl
  unfold actDecResponse
  rw [e]
  by_cases h : header.length = 48
  · rw [if_neg (by simp [h]), if_pos h, readBe_of_le (by simp; omega), readBe_of_le (by simp; omega),
      readBe_of_le (by simp; omega), readBe_of_le (by simp; omega)]
    rfl
  · rw [if_pos h, if_neg h]; rfl

/-- RES.DEC without its reads (44_result.md R144). -/
theorem resDecResponse_eq (header body : Bytes) :
    resDecResponse header body = some (if header.length = 33 then
      .ok (.message (.result ⟨fromBe 64 (slice header 0 8), fromBe 64 (slice header 8 16),
        fromBe 64 (slice header 16 24), fromBe 32 (slice header 24 28), fromBe 8 (slice header 28 29), body⟩))
      else .error (.badHeaderSize 33)) := by
  unfold resDecResponse Config.RES_HDR_LEN
  by_cases h : header.length = 33
  · rw [if_neg (by simp [h]), if_pos h, readBe_of_le (by simp; omega), readBe_of_le (by simp; omega),
      readBe_of_le (by simp; omega), readBe_of_le (by simp; omega), readBe_of_le (by simp; omega)]
    rfl
  · rw [if_pos h, if_neg h]; rfl

/-- A Tile header made of its scalars and any 8 bytes decodes to its message (42_tile.md R123, 30_encoding.md R71). -/
theorem tileDecResponse_scalars (m : TileMessage) {t : Bytes} (ht : t.length = 8) :
    tileDecResponse (tileScalars m ++ t) m.payload = some (.ok (.message (.tile m))) := by
  rw [tileDecResponse_eq, if_pos (by simp [ht])]
  simp [tileScalars, slice, List.drop_append, List.drop_eq_nil_of_le]

/-- The same for an Activation header and any 16 bytes (43_activation.md R133). -/
theorem actDecResponse_scalars (m : ActivationMessage) {t : Bytes} (ht : t.length = 16) :
    actDecResponse (actScalars m ++ t) m.payload = some (.ok (.message (.activation m))) := by
  rw [actDecResponse_eq, if_pos (by simp [ht])]
  simp [actScalars, slice, List.drop_append, List.drop_eq_nil_of_le]

/-- The same for a Result header and any 4 bytes (44_result.md R144). -/
theorem resDecResponse_scalars (m : ResultMessage) {t : Bytes} (ht : t.length = 4) :
    resDecResponse (resScalars m ++ t) m.payload = some (.ok (.message (.result m))) := by
  rw [resDecResponse_eq, if_pos (by simp [ht])]
  simp [resScalars, slice, List.drop_append, List.drop_eq_nil_of_le]

/-- Every decode command the dispatch selects answers: a message value, or BadHeaderSize with an accepted length. -/
theorem decoderResponse_answers {mt : U8} {d : Bytes → Bytes → Option Response} (h : decoderResponse mt = some d)
    (header body : Bytes) :
    (∃ m, d header body = some (.ok (.message m))) ∨
      ∃ n, d header body = some (.error (.badHeaderSize n)) ∧ (n = 34 ∨ n = 48 ∨ n = 33) := by
  unfold decoderResponse at h
  split at h
  · cases h
    rw [tileDecResponse_eq]
    split
    · exact .inl ⟨_, rfl⟩
    · exact .inr ⟨_, rfl, .inl rfl⟩
  · split at h
    · cases h
      rw [actDecResponse_eq]
      split
      · exact .inl ⟨_, rfl⟩
      · exact .inr ⟨_, rfl, .inr (.inl rfl)⟩
    · split at h
      · cases h
        rw [resDecResponse_eq]
        split
        · exact .inl ⟨_, rfl⟩
        · exact .inr ⟨_, rfl, .inr (.inr rfl)⟩
      · cases h

/-- DECODE where DEFRAME is not OK: one error response, which is the outcome (45_flows_and_properties.md R151). -/
theorem decodeFlow_of_error {buf : Bytes} {e : Error} (h : deframeResponse buf = some (.error e)) (s : State) :
    decodeFlow buf s = .next ((s.respond (.error e)).conclude (.response (.error e))) := by
  simp [decodeFlow, h]

/-- DECODE of a complete frame of a type with a codec: two responses, the second the outcome (R151). -/
theorem decodeFlow_of_decoder {buf : Bytes} {f : Frame} {d : Bytes → Bytes → Option Response} {r : Response}
    (h : deframeResponse buf = some (.ok (.frame f))) (hd : decoderResponse f.mtype = some d)
    (hr : d f.header f.body = some r) (s : State) :
    decodeFlow buf s = .next (((s.respond (.ok (.frame f))).respond r).conclude (.response r)) := by
  simp [decodeFlow, h, hd, hr]

/-- DECODE of a complete frame of a type with no codec: UnsupportedType (R152). -/
theorem decodeFlow_of_unassigned {buf : Bytes} {f : Frame} (h : deframeResponse buf = some (.ok (.frame f)))
    (hd : decoderResponse f.mtype = none) (s : State) :
    decodeFlow buf s = .next ((s.respond (.ok (.frame f))).conclude (.unsupportedType f.mtype)) := by
  simp [decodeFlow, h, hd]

theorem decoderResponse_eq_none {mt : U8} (h : decoderResponse mt = none) : 3 ≤ mt.toNat := by
  unfold decoderResponse at h
  split at h
  · cases h
  · split at h
    · cases h
    · split at h
      · cases h
      · rename_i h0 h1 h2
        simp only [Config.MT_TILE, Config.MT_ACT, Config.MT_RES, ← BitVec.toNat_inj] at h0 h1 h2
        simp at h0 h1 h2
        omega

end Sys2Proof.Laws
end

