-- ==== Sys2Proof/Laws/Units.lean ====
section
/-! SUPPORT. The ports: what a unit holds, and how a move of one unit looks from another. -/

namespace Sys2Proof.Laws

open Machine

@[simp] theorem ofUnit_nil {α : Type} (u : Nat) : ofUnit u ([] : List (Nat × α)) = [] := rfl

@[simp] theorem ofUnit_append {α : Type} (u : Nat) (l l' : List (Nat × α)) :
    ofUnit u (l ++ l') = ofUnit u l ++ ofUnit u l' := by
  simp [ofUnit]

theorem ofUnit_cons_self {α : Type} (u : Nat) (x : α) (l : List (Nat × α)) :
    ofUnit u ((u, x) :: l) = x :: ofUnit u l := by
  simp [ofUnit]

theorem ofUnit_cons_other {α : Type} {u v : Nat} (h : v ≠ u) (x : α) (l : List (Nat × α)) :
    ofUnit u ((v, x) :: l) = ofUnit u l := by
  simp [ofUnit, h]

/-- The entries a record gains are the active unit's. -/
theorem ofUnit_tagged {α : Type} (u v : Nat) (xs : List α) :
    ofUnit u (xs.map fun x => (v, x)) = if v = u then xs else [] := by
  by_cases h : v = u <;> simp [ofUnit, h, List.filter_map, Function.comp_def]

/-- A unit's command in progress is the first of what it holds. -/
theorem firstHeld_eq_head? (u : Nat) (held : List (Nat × Item)) : firstHeld u held = (ofUnit u held).head? := by
  induction held with
  | nil => rfl
  | cons p rest ih =>
    obtain ⟨v, x⟩ := p
    by_cases h : v = u
    · simp [firstHeld, ofUnit, h]
    · simp [firstHeld, ofUnit_cons_other h, h, ih]

/-- The command in progress leaves, the waiting ones stay in order. -/
theorem ofUnit_dropFirstHeld_self (u : Nat) (held : List (Nat × Item)) :
    ofUnit u (dropFirstHeld u held) = (ofUnit u held).tail := by
  induction held with
  | nil => rfl
  | cons p rest ih =>
    obtain ⟨v, x⟩ := p
    by_cases h : v = u
    · subst h; simp [dropFirstHeld, ofUnit_cons_self]
    · simp [dropFirstHeld, h, ofUnit_cons_other h, ih]

/-- Another unit's items are untouched. -/
theorem ofUnit_dropFirstHeld_other {u v : Nat} (h : v ≠ u) (held : List (Nat × Item)) :
    ofUnit v (dropFirstHeld u held) = ofUnit v held := by
  induction held with
  | nil => rfl
  | cons p rest ih =>
    obtain ⟨w, x⟩ := p
    by_cases hw : w = u
    · subst hw; simp [dropFirstHeld, ofUnit_cons_other h.symm]
    · by_cases hv : w = v
      · subst hv; simp [dropFirstHeld, hw, ofUnit_cons_self, ih]
      · simp [dropFirstHeld, hw, ofUnit_cons_other hv, ih]

theorem dropFirstHeld_subset {u : Nat} {held : List (Nat × Item)} {p : Nat × Item}
    (h : p ∈ dropFirstHeld u held) : p ∈ held := by
  induction held with
  | nil => exact h
  | cons q rest ih =>
    obtain ⟨v, x⟩ := q
    by_cases hv : v = u
    · simp [dropFirstHeld, hv] at h; simp [h]
    · simp [dropFirstHeld, hv] at h
      rcases h with h | h
      · simp [h]
      · simp [ih h]

/-- The command in progress is one item. -/
theorem dropFirstHeld_length {u : Nat} {held : List (Nat × Item)} {item : Item} (h : firstHeld u held = some item) :
    (dropFirstHeld u held).length + 1 = held.length := by
  induction held with
  | nil => cases h
  | cons p rest ih =>
    obtain ⟨v, x⟩ := p
    by_cases hv : v = u
    · simp [dropFirstHeld, hv]
    · simp [firstHeld, hv] at h
      simp [dropFirstHeld, hv, ih h]

theorem dropFirstHeld_length_le (u : Nat) (held : List (Nat × Item)) :
    (dropFirstHeld u held).length ≤ held.length := by
  induction held with
  | nil => exact Nat.le_refl _
  | cons p rest ih =>
    obtain ⟨v, x⟩ := p
    by_cases h : v = u
    · simp [dropFirstHeld, h]
    · simp [dropFirstHeld, h, ih]

theorem present_held_length_le (s : State) (u : Nat) (item : Item) :
    (s.present u item).held.length ≤ s.held.length + 1 := by
  rcases present_cases s u item with h | ⟨_, h⟩ <;> simp [h]

theorem heldCount_eq_length (u : Nat) (held : List (Nat × Item)) : heldCount u held = (ofUnit u held).length := by
  simp [heldCount, ofUnit]

/-- What a port does, as the unit's own host sees it. -/
theorem present_view_self (s : State) (u : Nat) (item : Item) :
    (s.present u item).view u =
      if (s.view u).held = [] ∨ Config.busyPortAccepts (s.view u).held.length = true then
        { s.view u with held := (s.view u).held ++ [item] } else s.view u := by
  have e : (s.view u).held = ofUnit u s.held := rfl
  rw [e]
  unfold State.present
  rw [heldCount_eq_length]
  by_cases h : ofUnit u s.held = [] ∨ Config.busyPortAccepts (ofUnit u s.held).length = true
  · rw [if_pos (by simpa [List.length_eq_zero_iff] using h), if_pos h]
    simp [State.view, ofUnit_cons_self]
  · rw [if_neg (by simpa [List.length_eq_zero_iff] using h), if_neg h]

theorem present_view_other (s : State) {u v : Nat} (h : v ≠ u) (item : Item) :
    (s.present u item).view v = s.view v := by
  unfold State.present
  split <;> simp [State.view, ofUnit_cons_other h.symm]

theorem dropCurrent_view_self (s : State) (u : Nat) :
    (s.dropCurrent u).view u = { s.view u with held := (s.view u).held.tail } := by
  simp [State.view, ofUnit_dropFirstHeld_self]

theorem dropCurrent_view_other (s : State) {u v : Nat} (h : v ≠ u) : (s.dropCurrent u).view v = s.view v := by
  simp [State.view, ofUnit_dropFirstHeld_other h]

/-- The active unit's host sees the responses and outcomes recorded, another unit's host sees nothing. -/
theorem record_view (s : State) (rs : List Response) (os : List DecodeOutcome) (v : Nat) :
    (s.record rs os).view v = if s.active = v then
      { s.view v with responses := (s.view v).responses ++ rs, outcomes := (s.view v).outcomes ++ os }
      else s.view v := by
  simp only [State.view, record_held, record_responses, record_outcomes, ofUnit_append, ofUnit_tagged]
  split <;> simp

end Sys2Proof.Laws
end

