-- ==== Sys2Proof/Laws/Flows.lean ====
section
/-! SUPPORT. Decoding a buffer, the DECODE flow of an item, and one step, each said once. -/

namespace Sys2Proof.Laws

open Machine

theorem respond_inj {s : State} {r r' : Response} (h : s.respond r = s.respond r') : r = r' := by
  simpa using congrArg State.responses h

/-- A command that has one answer has no other. -/
theorem next_respond_inj {s : State} {r r' : Response}
    (h : (Host.Outcome.next (s.respond r) : Host.Outcome State Fault Refusal) = .next (s.respond r')) : r = r' := by
  injection h with h
  exact respond_inj h

/-- Eight bytes and more, by their first two (30_encoding.md R74). -/
theorem decodeWire_cons (v t h0 h1 b0 b1 b2 b3 : Byte) (rest : Bytes) :
    decodeWire (v :: t :: h0 :: h1 :: b0 :: b1 :: b2 :: b3 :: rest) =
      if v ≠ Config.VERSION then .error (.otherVersion v)
      else if t = Config.MT_TILE then .ok (.tileMessage (fromBe 16 [h0, h1]) (fromBe 32 [b0, b1, b2, b3]) rest)
      else if t = Config.MT_ACT then .ok (.activationMessage (fromBe 16 [h0, h1]) (fromBe 32 [b0, b1, b2, b3]) rest)
      else if t = Config.MT_RES then .ok (.resultMessage (fromBe 16 [h0, h1]) (fromBe 32 [b0, b1, b2, b3]) rest)
      else .error (.unassignedType t) := rfl

/-- The envelope of fields that were read from bytes is those bytes (30_encoding.md R66). -/
theorem envelope_fromBe (mt h0 h1 b0 b1 b2 b3 : Byte) :
    envelope mt (fromBe 16 [h0, h1]) (fromBe 32 [b0, b1, b2, b3]) = [1, mt, h0, h1, b0, b1, b2, b3] := by
  simp [envelope, be_fromBe_sixteen, be_fromBe_thirtytwo, Config.VERSION]

/-- An envelope and any bytes after it, by the message type (30_encoding.md R74). -/
theorem decodeWire_envelope (mt : U8) (H : U16) (B : U32) (rest : Bytes) :
    decodeWire (envelope mt H B ++ rest) =
      if mt = Config.MT_TILE then .ok (.tileMessage H B rest)
      else if mt = Config.MT_ACT then .ok (.activationMessage H B rest)
      else if mt = Config.MT_RES then .ok (.resultMessage H B rest)
      else .error (.unassignedType mt) := by
  have e1 := fromBe_be_sixteen H
  have e2 := fromBe_be_thirtytwo B
  rw [be_sixteen] at e1
  rw [be_thirtytwo] at e2
  simp only [envelope, be_sixteen, be_thirtytwo, List.cons_append, List.nil_append, decodeWire_cons, e1, e2]
  simp

/-- A buffer of at least eight bytes whose version is 1 is an envelope and the bytes after it. -/
theorem eq_envelope_append {buf : Bytes} (hl : 8 ≤ buf.length) (hv : buf.getD 0 0 = 1) :
    ∃ mt H B, buf = envelope mt H B ++ buf.drop 8 := by
  match buf, hl with
  | v :: t :: h0 :: h1 :: b0 :: b1 :: b2 :: b3 :: rest, _ =>
    have hv : v = 1 := hv
    exact ⟨t, fromBe 16 [h0, h1], fromBe 32 [b0, b1, b2, b3], by rw [envelope_fromBe, hv]; rfl⟩

/-- Whatever the buffer, the item that carries it goes through DECODE (45_flows_and_properties.md R151). -/
theorem execItem_wire (buf : Bytes) (s : State) : execItem (.wire buf) s = decodeFlow buf s := by
  match buf with
  | v :: t :: h0 :: h1 :: b0 :: b1 :: b2 :: b3 :: rest =>
    simp only [execItem, decodeWire_cons]
    by_cases hv : v = Config.VERSION
    · have e : v :: t :: h0 :: h1 :: b0 :: b1 :: b2 :: b3 :: rest =
          envelope t (fromBe 16 [h0, h1]) (fromBe 32 [b0, b1, b2, b3]) ++ rest := by
        rw [envelope_fromBe, hv]; rfl
      rw [if_neg (by simp [hv]), e]
      by_cases h0 : t = Config.MT_TILE
      · rw [if_pos h0, h0]; rfl
      · by_cases h1 : t = Config.MT_ACT
        · rw [if_neg h0, if_pos h1, h1]; rfl
        · by_cases h2 : t = Config.MT_RES
          · rw [if_neg h0, if_neg h1, if_pos h2, h2]; rfl
          · rw [if_neg h0, if_neg h1, if_neg h2]; rfl
    · rw [if_pos hv]; rfl
  | [] | [_] | [_, _] | [_, _, _] | [_, _, _, _] | [_, _, _, _, _] | [_, _, _, _, _, _] | [_, _, _, _, _, _, _] => rfl

/-- ENCODE m (R150): the one answer of the one encode command of m's kind. -/
theorem exec_encodeInstr (m : Message) (s : State) :
    exec (encodeInstr m) s = .next (s.respond (if m.payload.length ≤ Config.BLEN_MAX then
      .ok (.out (frameBytes ⟨m.mtype, m.scalars ++ tag m.tagLength m.payload, m.payload⟩))
      else .error .lengthOverflow)) := by
  cases m with
  | tile m => show answer (tileEncResponse m) s = _; rw [tileEncResponse_eq]; rfl
  | activation m => show answer (actEncResponse m) s = _; rw [actEncResponse_eq]; rfl
  | result m => show answer (resEncResponse m) s = _; rw [resEncResponse_eq]; rfl

/-- A header of a message's scalars and a tag of its kind's length decodes to the message, whatever the tag bytes. -/
theorem decoderResponse_scalars (m : Message) {t : Bytes} (ht : t.length = m.tagLength) :
    ∃ d, decoderResponse m.mtype = some d ∧ d (m.scalars ++ t) m.payload = some (.ok (.message m)) := by
  cases m with
  | tile m => exact ⟨_, rfl, tileDecResponse_scalars m ht⟩
  | activation m => exact ⟨_, rfl, actDecResponse_scalars m ht⟩
  | result m => exact ⟨_, rfl, resDecResponse_scalars m ht⟩

/-- One step, when a move is left, be it the schedule's or a unit's own (log 4, log 5). -/
theorem step_of_nextMove {s : State} {m : Move} {rest : List Move} (h : s.nextMove = some (m, rest)) :
    step s = if unitExists m.unit = true then makeMove m { s with schedule := rest } else .fault .noSuchUnit := by
  unfold step
  rw [h]

/-- One step, when the schedule has a move. -/
theorem step_of_schedule {s : State} {m : Move} {rest : List Move} (h : s.schedule = m :: rest) :
    step s = if unitExists m.unit = true then makeMove m { s with schedule := rest } else .fault .noSuchUnit :=
  step_of_nextMove (nextMove_of_schedule h)

/-- One step, when nothing is left to do (log 17). -/
theorem step_of_nothing {s : State} (h : s.schedule = []) (hh : s.held = []) : step s = .next s := by
  unfold step
  rw [nextMove_of_nothing h hh]

/-- Running the unit of the oldest item executes that item (70_reset_and_hazards.md R214). -/
theorem runUnit_oldest {s : State} {u : Nat} {item : Item} {rest : List (Nat × Item)} (hh : s.held = (u, item) :: rest) :
    runUnit u s = execItem item { s with held := rest, active := u } := by
  simp [runUnit, hh, firstHeld, dropFirstHeld, State.dropCurrent]

/-- One step, when no move is scheduled and an existing unit's item is the oldest. -/
theorem step_of_held {s : State} {u : Nat} {item : Item} {rest : List (Nat × Item)} (h : s.schedule = [])
    (hh : s.held = (u, item) :: rest) (hu : unitExists u = true) :
    step s = execItem item { s with held := rest, active := u } := by
  have hu' : unitExists (Move.run u).unit = true := hu
  rw [step_of_nextMove (nextMove_of_held h hh), if_pos hu']
  show runUnit u { s with schedule := [] } = _
  rw [runUnit_oldest (s := { s with schedule := [] }) hh, ← h]

/-- A run of n + 1 steps whose first step completes is the run of n steps from there. -/
theorem run_succ (n : Nat) {s t : State} (h : step s = .next t) : Sys2Proof.core.run (n + 1) s = Sys2Proof.core.run n t := by
  have e : ∀ (M : Host.Core) (x y : M.State), M.step x = .next y → M.run (n + 1) x = M.run n y := by
    intro M x y hx
    rw [Host.Core.run, hx]
  exact e Sys2Proof.core s t h

end Sys2Proof.Laws
end

