-- ==== Sys2Proof/Laws/PerInstr.lean ====
section
/-! SUPPORT. Per-instruction lemmas. Family OpcodeRow: the item an instruction is encoded as matches its own row of opcode_table.json and no other. -/

namespace Sys2Proof.Laws.OpcodeRow

/-- The encoding matches the instruction's row alone (opcode_table.json; 30_encoding.md R62, R65, R74). -/
def Statement (i : Instr) : Prop :=
  i.WellFormed → matchingRows (encode i) = [i.mnemonic]

theorem cksum (data : Bytes) : Statement (.cksum data) := fun _ =>
  (by decide : opMnemonics 0x0 = ["CKSUM"])
theorem frame (f : Frame) : Statement (.frame f) := fun _ =>
  (by decide : opMnemonics 0x1 = ["FRAME"])
theorem deframe (buf : Bytes) : Statement (.deframe buf) := fun _ =>
  (by decide : opMnemonics 0x2 = ["DEFRAME"])
theorem tileEnc (m : TileMessage) : Statement (.tileEnc m) := fun _ =>
  (by decide : opMnemonics 0x3 = ["TILE.ENC"])
theorem tileDec (header body : Bytes) : Statement (.tileDec header body) := fun _ =>
  (by decide : opMnemonics 0x4 = ["TILE.DEC"])
theorem actEnc (m : ActivationMessage) : Statement (.actEnc m) := fun _ =>
  (by decide : opMnemonics 0x5 = ["ACT.ENC"])
theorem actDec (header body : Bytes) : Statement (.actDec header body) := fun _ =>
  (by decide : opMnemonics 0x6 = ["ACT.DEC"])
theorem resEnc (m : ResultMessage) : Statement (.resEnc m) := fun _ =>
  (by decide : opMnemonics 0x7 = ["RES.ENC"])
theorem resDec (header body : Bytes) : Statement (.resDec header body) := fun _ =>
  (by decide : opMnemonics 0x8 = ["RES.DEC"])
theorem reserved9 : Statement .reserved9 := fun _ =>
  (by decide : opMnemonics 0x9 = ["RESERVED.9"])

theorem reservedAB (op : BitVec 4) : Statement (.reservedAB op) := by
  revert op
  unfold Statement
  decide

theorem reservedCF (op : BitVec 4) : Statement (.reservedCF op) := by
  revert op
  unfold Statement
  decide

/-- A buffer with an envelope matches the wire row of its message type. -/
theorem matchingRows_envelope (mt : U8) (h : U16) (b : U32) (rest : Bytes) :
    matchingRows (.wire (Machine.envelope mt h b ++ rest)) =
      (wireRows.filter fun r => Machine.fromBe 16 [Config.VERSION, mt] == r.pattern).map WireRow.mnemonic := by
  have e : (Machine.envelope mt h b ++ rest).take 2 = [Config.VERSION, mt] := rfl
  have l : 8 ≤ (Machine.envelope mt h b ++ rest).length := by simp [Machine.envelope, Machine.be]; omega
  simp only [matchingRows, WireRow.hits, e, decide_eq_true l, Bool.true_and]

theorem tileMessage (h : U16) (b : U32) (rest : Bytes) : Statement (.tileMessage h b rest) :=
  fun _ => matchingRows_envelope Config.MT_TILE h b rest
theorem activationMessage (h : U16) (b : U32) (rest : Bytes) : Statement (.activationMessage h b rest) :=
  fun _ => matchingRows_envelope Config.MT_ACT h b rest
theorem resultMessage (h : U16) (b : U32) (rest : Bytes) : Statement (.resultMessage h b rest) :=
  fun _ => matchingRows_envelope Config.MT_RES h b rest

end Sys2Proof.Laws.OpcodeRow
end

