-- ==== Sys2Proof/Tests/Slice0.lean ====
section
/-! SUPPORT. Tests, and a witness for the hypotheses of every obligation that has some. Expected values are the spec's: 95_test_vectors.md by vector id, or the encoding tables of 30_encoding.md and opcode_table.json. -/

namespace Sys2Proof.Tests

open Machine

/-- The state every one-step test starts from: a unit just out of reset. -/
def start : State := State.reset

/-- The next state of an outcome; none where it stops. -/
def after : Host.Outcome State Fault Refusal → Option State
  | .next s => some s
  | .fault _ => none
  | .refused _ => none

/-- What is left after a command has given the answer r from `start`. -/
def gives (r : Response) : Option State := some (start.respond r)

/-! ## WellFormed refuses ill-formed terms -/

theorem test_wellFormed_refuses_AB_of_another_row : (Instr.reservedAB 0x9).wellFormed = false := by decide
theorem test_wellFormed_refuses_AB_above_its_row : (Instr.reservedAB 0xC).wellFormed = false := by decide
theorem test_wellFormed_refuses_CF_below_its_row : (Instr.reservedCF 0xB).wellFormed = false := by decide
theorem test_wellFormed_refuses_CF_of_a_command : (Instr.reservedCF 0x4).wellFormed = false := by decide
theorem test_wellFormed_accepts_both_rows :
    (Instr.reservedAB 0xA).wellFormed ∧ (Instr.reservedAB 0xB).wellFormed ∧ (Instr.reservedCF 0xC).wellFormed ∧
    (Instr.reservedCF 0xF).wellFormed := by decide

/-! ## Decoding: op codes of 30_encoding.md R62 and R65, operand fields of R63 -/

theorem test_decode_cksum : decodeCommand { op := 0b0000, data := [0x78] } = .cksum [0x78] := by decide
theorem test_decode_frame : decodeCommand { op := 0b0001, mtype := 7, header := [0xAA], body := [0xBB] } =
    .frame ⟨7, [0xAA], [0xBB]⟩ := by decide
theorem test_decode_deframe : decodeCommand { op := 0b0010, buf := [0xFF], data := [1] } = .deframe [0xFF] := by decide
theorem test_decode_tileEnc : decodeCommand 
    { op := 0b0011, modelId := 1, tileId := 2, tileKind := 3, layerIdx := 4, expertIdx := 5, payload := [6] } =
    .tileEnc ⟨1, 2, 3, 4, 5, [6]⟩ := by decide
theorem test_decode_tileDec : decodeCommand { op := 0b0100, header := [1], body := [2] } = .tileDec [1] [2] := by decide
theorem test_decode_actEnc : decodeCommand 
    { op := 0b0101, sessionId := 1, stepId := 2, fromTileId := 3, toTileId := 4, payload := [5] } = .actEnc ⟨1, 2, 3, 4, [5]⟩ := by decide
theorem test_decode_actDec : decodeCommand { op := 0b0110, header := [1], body := [2] } = .actDec [1] [2] := by decide
theorem test_decode_resEnc : decodeCommand 
    { op := 0b0111, sessionId := 1, stepId := 2, tileId := 3, cyclesHint := 4, voteGroup := 5, payload := [6] } = .resEnc ⟨1, 2, 3, 4, 5, [6]⟩ := by decide
theorem test_decode_resDec : decodeCommand { op := 0b1000, header := [1], body := [2] } = .resDec [1] [2] := by decide
theorem test_decode_reserved9 : decodeCommand { op := 0b1001 } = .reserved9 := by decide
theorem test_decode_reservedAB : decodeCommand { op := 0b1010 } = .reservedAB 0xA ∧
    decodeCommand { op := 0b1011 } = .reservedAB 0xB := by decide
theorem test_decode_reservedCF : decodeCommand { op := 0b1100 } = .reservedCF 0xC ∧
    decodeCommand { op := 0b1101 } = .reservedCF 0xD ∧ decodeCommand { op := 0b1110 } = .reservedCF 0xE ∧
    decodeCommand { op := 0b1111 } = .reservedCF 0xF := by decide

/-! ## Decoding: wire bytes (30_encoding.md R66, R74; the envelopes of S1, S2, S3) -/

theorem test_decode_tileMessage : decodeWire [0x01, 0x00, 0x00, 0x22, 0x00, 0x00, 0x00, 0x64, 0xAA] =
    .ok (.tileMessage 34 100 [0xAA]) := rfl
theorem test_decode_activationMessage : decodeWire [0x01, 0x01, 0x00, 0x30, 0x00, 0x00, 0x00, 0x01] =
    .ok (.activationMessage 48 1 []) := rfl
theorem test_decode_resultMessage : decodeWire [0x01, 0x02, 0x00, 0x21, 0x00, 0x00, 0x00, 0x32] =
    .ok (.resultMessage 33 50 []) := rfl
theorem test_decode_lengths_big_endian : decodeWire [0x01, 0x00, 0x01, 0x00, 0x01, 0x00, 0x00, 0x00] =
    .ok (.tileMessage 256 16777216 []) := rfl
theorem test_decode_rejects_type_3 : decodeWire [0x01, 0x03, 0, 0, 0, 0, 0, 0] = .error (.unassignedType 3) := rfl
theorem test_decode_rejects_version_2 : decodeWire [0x02, 0x00, 0, 0, 0, 0, 0, 0] = .error (.otherVersion 2) := rfl
theorem test_decode_rejects_seven_bytes : decodeWire [0x01, 0x00, 0, 0, 0, 0, 0] = .error .tooShort := rfl
theorem test_opcode_table_words : decodeTableWord 8 0x4 = some (.tileDec [] []) ∧
    decodeTableWord 8 0x5 = some (.actEnc ⟨0, 0, 0, 0, []⟩) ∧
    decodeTableWord 8 0x7 = some (.resEnc ⟨0, 0, 0, 0, 0, []⟩) ∧ decodeTableWord 8 0x9 = some .reserved9 ∧
    decodeTableWord 64 0x0101000000000000 = some (.activationMessage 0 0 []) ∧
    decodeTableWord 64 0x0200000000000000 = none := by decide

/-! ## Big-endian conversion (00_scope.md R13) -/

theorem test_be_examples : be 16 34 = [0x00, 0x22] ∧ be 32 999 = [0x00, 0x00, 0x03, 0xE7] ∧
    be 64 42 = [0, 0, 0, 0, 0, 0, 0, 0x2A] ∧ be 8 0xFF = [0xFF] := by decide
theorem test_fromBe_examples : fromBe 16 [0x12, 0x34] = 4660 ∧
    fromBe 64 [1, 2, 3, 4, 5, 6, 7, 8] = 72623859790382856 := by decide
theorem test_memRead_stays_inside : memRead [1, 2, 3] 1 2 = some [2, 3] ∧ memRead [1, 2, 3] 3 0 = some [] ∧
    memRead [1, 2, 3] 2 2 = none := by decide

/-! ## Commands -/

/-- V-CK-1: the empty input is legal, and the digest is the checksum of it, whatever HASH is. -/
theorem test_cksum_empty : after (exec (.cksum []) start) = gives (.ok (.digest (ck16 []))) := rfl
/-- V-FR-1. -/
theorem test_frame_type_seven : after (exec (.frame ⟨7, [0xAA, 0xBB], [1, 2, 3]⟩) start) =
    gives (.ok (.out [0x01, 0x07, 0x00, 0x02, 0x00, 0x00, 0x00, 0x03, 0xAA, 0xBB, 0x01, 0x02, 0x03])) := by decide
/-- V-FR-4 (256 header bytes: the length field is 01 00). -/
theorem test_frame_header_length_big_endian : frameBytes ⟨3, List.replicate 256 0x11, []⟩ =
    [0x01, 0x03, 0x01, 0x00, 0x00, 0x00, 0x00, 0x00] ++ List.replicate 256 0x11 := by
  simp only [frameBytes, List.length_replicate, List.length_nil, List.append_nil]
  rw [show envelope 3 (BitVec.ofNat 16 256) (BitVec.ofNat 32 0) =
    [0x01, 0x03, 0x01, 0x00, 0x00, 0x00, 0x00, 0x00] by decide]
/-- V-DF-8: trailing bytes are ignored, type 9 is returned. -/
theorem test_deframe_trailing : after (exec (.deframe [0x01, 0x09, 0x00, 0x01, 0x00, 0x00, 0x00, 0x02, 0xAA, 0x01, 0x02,
    0xEE, 0xFF]) start) = gives (.ok (.frame ⟨9, [0xAA], [0x01, 0x02]⟩)) := by decide
/-- V-DF-3, V-DF-5, V-DF-9, V-DF-16, V-DF-17: the order of the checks, no wrapping sum, big-endian lengths. -/
theorem test_deframe_checks :
    after (exec (.deframe [0x02, 0, 0, 0, 0, 0, 0]) start) = gives (.error .shortFrame) ∧
    after (exec (.deframe [0x02, 0, 0xFF, 0xFF, 0xFF, 0xFF, 0xFF, 0xFF]) start) = gives (.error .versionMismatch) ∧
    after (exec (.deframe [0x01, 0, 0, 0, 0xFF, 0xFF, 0xFF, 0xF8]) start) = gives (.error .incompleteFrame) ∧
    after (exec (.deframe [0x01, 0, 0, 1, 0, 0, 0, 0, 0xAA]) start) = gives (.ok (.frame ⟨0, [0xAA], []⟩)) ∧
    after (exec (.deframe [0x01, 0, 0, 0, 1, 0, 0, 0, 0xAA]) start) = gives (.error .incompleteFrame) := by decide

/-- V-TE-3, symbolic in the tag: tile_kind 9 is encoded unchanged. -/
theorem test_tileEnc : after (exec (.tileEnc ⟨7, 7, 9, 0, 1, [0x05]⟩) start) = gives (.ok (.out (
    [0x01, 0x00, 0x00, 0x22, 0x00, 0x00, 0x00, 0x01, 0, 0, 0, 0, 0, 0, 0, 7, 0, 0, 0, 0, 0, 0, 0, 7,
     0, 0, 0, 9, 0, 0, 0, 0, 0, 1] ++ tag 8 [0x05] ++ [0x05]))) := by
  show after (answer (tileEncResponse ⟨7, 7, 9, 0, 1, [0x05]⟩) start) = _
  rw [Laws.tileEncResponse_eq, if_pos (by decide)]
  simp only [frameBytes, List.length_append, Laws.tileScalars_length, Laws.tag_length _ (show 8 ≤ 16 by decide)]
  rfl
/-- hT of 95_test_vectors.md: a Tile header with a junk tag. -/
def hT : Bytes := [0, 0, 0, 0, 0, 0, 0, 1, 0, 0, 0, 0, 0, 0, 0, 2, 0, 0, 0, 0, 0, 0, 0, 3, 0xFF, 0xFF,
  0xDE, 0xAD, 0xBE, 0xEF, 0xDE, 0xAD, 0xBE, 0xEF]
/-- V-TD-1. -/
theorem test_tileDec : after (exec (.tileDec hT [0x05]) start) =
    gives (.ok (.message (.tile ⟨1, 2, 0, 3, 65535, [0x05]⟩))) := by decide
/-- V-TD-4, V-TD-5: 33 and 35 bytes. -/
theorem test_tileDec_refuses : after (exec (.tileDec (hT.take 33) [0x05]) start) = gives (.error (.badHeaderSize 34)) ∧
    after (exec (.tileDec (hT ++ [0]) [0x05]) start) = gives (.error (.badHeaderSize 34)) := by decide

/-- V-AE-2, symbolic in the tag: all sixteen checksum bytes follow 32 zero bytes. -/
theorem test_actEnc : after (exec (.actEnc ⟨0, 0, 0, 0, []⟩) start) = gives (.ok (.out (
    [0x01, 0x01, 0x00, 0x30, 0x00, 0x00, 0x00, 0x00] ++ List.replicate 32 0 ++ (ck16 []).toList))) := by
  show after (answer (actEncResponse ⟨0, 0, 0, 0, []⟩) start) = _
  rw [Laws.actEncResponse_eq, if_pos (by decide)]
  have e : tag 16 [] = (ck16 []).toList := List.take_of_length_le (by simp)
  simp only [frameBytes, List.length_append, Laws.actScalars_length, e, Vector.length_toList, List.append_nil]
  rfl
/-- hA of 95_test_vectors.md: an Activation header with a zero tag. -/
def hA : Bytes := [0, 0, 0, 0, 0, 0, 0, 0x2A, 0, 0, 0, 0, 0, 0, 0, 7, 0, 0, 0, 0, 0, 0, 0, 1,
  0, 0, 0, 0, 0, 0, 0, 2] ++ List.replicate 16 0
/-- V-AD-1. -/
theorem test_actDec : after (exec (.actDec hA [0x78]) start) =
    gives (.ok (.message (.activation ⟨42, 7, 1, 2, [0x78]⟩))) := by decide
/-- V-AD-2, V-AD-3, V-AD-4: 32, 47 and 49 bytes. -/
theorem test_actDec_refuses : after (exec (.actDec (hA.take 32) [0x78]) start) = gives (.error (.badHeaderSize 48)) ∧
    after (exec (.actDec (hA.take 47) [0x78]) start) = gives (.error (.badHeaderSize 48)) ∧
    after (exec (.actDec (hA ++ [0]) [0x78]) start) = gives (.error (.badHeaderSize 48)) := by decide

/-- V-RE-2, symbolic in the tag: vote_group 255 is encoded unchanged. -/
theorem test_resEnc : after (exec (.resEnc ⟨0x1122334455667788, 0, 0xFFFFFFFFFFFFFFFF, 0, 255, [0xAB, 0xCD]⟩) start) =
    gives (.ok (.out ([0x01, 0x02, 0x00, 0x21, 0x00, 0x00, 0x00, 0x02,
      0x11, 0x22, 0x33, 0x44, 0x55, 0x66, 0x77, 0x88, 0, 0, 0, 0, 0, 0, 0, 0,
      0xFF, 0xFF, 0xFF, 0xFF, 0xFF, 0xFF, 0xFF, 0xFF, 0, 0, 0, 0, 0xFF] ++ tag 4 [0xAB, 0xCD] ++ [0xAB, 0xCD]))) := by
  show after (answer (resEncResponse ⟨0x1122334455667788, 0, 0xFFFFFFFFFFFFFFFF, 0, 255, [0xAB, 0xCD]⟩) start) = _
  rw [Laws.resEncResponse_eq, if_pos (by decide)]
  simp only [frameBytes, List.length_append, Laws.resScalars_length, Laws.tag_length _ (show 4 ≤ 16 by decide)]
  rfl
/-- hR of 95_test_vectors.md: a Result header with zero trailing bytes. -/
def hR : Bytes := [0, 0, 0, 0, 0, 0, 0, 5, 0, 0, 0, 0, 0, 0, 0, 6, 0, 0, 0, 0, 0, 0, 0, 9,
  0, 0, 3, 0xE7, 1, 0, 0, 0, 0]
/-- V-RD-1. -/
theorem test_resDec : after (exec (.resDec hR []) start) =
    gives (.ok (.message (.result ⟨5, 6, 9, 999, 1, []⟩))) := by decide
/-- V-RD-3, V-RD-4: 32 and 34 bytes. -/
theorem test_resDec_refuses : after (exec (.resDec (hR.take 32) []) start) = gives (.error (.badHeaderSize 33)) ∧
    after (exec (.resDec (hR ++ [0]) []) start) = gives (.error (.badHeaderSize 33)) := by decide

/-- V-OP-1, V-OP-2, V-OP-3. -/
theorem test_reserved_ops : after (exec (decodeCommand { op := 0x9, data := [1] }) start) = gives (.error .illegalOp) ∧
    after (exec (decodeCommand { op := 0xB, buf := [1] }) start) = gives (.error .illegalOp) ∧
    after (exec (decodeCommand { op := 0xF, body := [1] }) start) = gives (.error .illegalOp) := by decide

/-! ## DECODE -/

/-- V-DEC-5: type 3 has no codec. -/
theorem test_decode_unassigned : after (execItem (.wire [0x01, 0x03, 0, 0, 0, 0, 0, 0]) start) =
    some ((start.respond (.ok (.frame ⟨3, [], []⟩))).conclude (.unsupportedType 3)) := by decide
/-- V-DEC-9: the empty buffer is refused by DEFRAME and no decode command is issued. -/
theorem test_decode_empty : after (execItem (.wire []) start) =
    some ((start.respond (.error .shortFrame)).conclude (.response (.error .shortFrame))) := by decide
/-- A Tile frame arrives with a junk tag: two commands, one message (R151, R153). -/
theorem test_decode_tile_frame : after (execItem (.wire ([0x01, 0x00, 0x00, 0x22, 0, 0, 0, 0x01] ++ hT ++ [0x05])) start) =
    some (((start.respond (.ok (.frame ⟨0, hT, [0x05]⟩))).respond
      (.ok (.message (.tile ⟨1, 2, 0, 3, 65535, [0x05]⟩)))).conclude
      (.response (.ok (.message (.tile ⟨1, 2, 0, 3, 65535, [0x05]⟩))))) := by decide
/-- V-DEC-2: a 48-byte header under type 0 reaches TILE.DEC, which refuses it. -/
theorem test_decode_retyped : after (execItem (.wire ([0x01, 0x00, 0x00, 0x30, 0, 0, 0, 0x01] ++ hA ++ [0x78])) start) =
    some (((start.respond (.ok (.frame ⟨0, hA, [0x78]⟩))).respond (.error (.badHeaderSize 34))).conclude
      (.response (.error (.badHeaderSize 34)))) := by decide
/-- S3's header under type 2. -/
theorem test_decode_result_frame : after (exec (.resultMessage 33 0 hR) start) =
    some (((start.respond (.ok (.frame ⟨2, hR, []⟩))).respond
      (.ok (.message (.result ⟨5, 6, 9, 999, 1, []⟩)))).conclude
      (.response (.ok (.message (.result ⟨5, 6, 9, 999, 1, []⟩))))) := by decide
/-- The host's own check needs the right tag bytes: a header too short to hold a tag has none (R154). -/
theorem test_host_check_needs_a_tag : hostIntegrityCheck 0 [] (ck16 []) = none ∧
    hostIntegrityCheck 3 hT (ck16 []) = none := ⟨rfl, rfl⟩

/-! ## Status fields (60_exceptions.md R171, R172) -/

theorem test_status_codes : (Response.error .shortFrame).status = 1 ∧ (Response.error .versionMismatch).status = 2 ∧
    (Response.error .incompleteFrame).status = 3 ∧ (Response.error (.badHeaderSize 34)).status = 4 ∧
    (Response.error .lengthOverflow).status = 5 ∧ (Response.error .illegalOp).status = 6 ∧
    (Response.error (.badHeaderSize 48)).expected = some 48 := by decide

/-! ## Steps -/

/-- An opcode-table word runs as the first instruction after reset. -/
theorem test_step_runs_op_9_first : after (step (State.reset.withFetchWord 8 0x9)) =
    some (State.reset.respond (.error .illegalOp)) := by decide
theorem test_step_runs_wire_word_first : after (step (State.reset.withFetchWord 64 0x0100000000000000)) =
    some (((State.reset.respond (.ok (.frame ⟨0, [], []⟩))).respond (.error (.badHeaderSize 34))).conclude
      (.response (.error (.badHeaderSize 34)))) := by decide
/-- R214: a command handed to a unit is answered although the schedule names no run of it. -/
theorem test_step_answers_without_a_run_move :
    after (step { State.reset with held := [(0, .command { op := 0xC })] }) =
      some (State.reset.respond (.error .illegalOp)) := by decide
theorem test_step_idle : after (step State.reset) = some State.reset := by decide

/-! ## Witnesses: a concrete state and operands that meet all hypotheses of an obligation, clause by clause -/

/-- A body or payload of n zero bytes. -/
def zeros (n : Nat) : Bytes := List.replicate n 0

theorem zeros_length (n : Nat) : (zeros n).length = n := List.length_replicate

/-- The longest body a frame can carry, and one byte more (41_frame.md R102). -/
theorem witness_body_boundary : (zeros 4294967295).length ≤ 4294967295 ∧ (zeros 4294967296).length > 4294967295 ∧
    (zeros 65535).length ≤ 65535 ∧ (zeros 65536).length > 65535 := by
  simp only [zeros_length]
  decide

/-- A Tile, an Activation and a Result message with a given payload. -/
def aTile (payload : Bytes) : TileMessage := ⟨1, 2, 0, 3, 0xFFFF, payload⟩
def anActivation (payload : Bytes) : ActivationMessage := ⟨42, 7, 1, 2, payload⟩
def aResult (payload : Bytes) : ResultMessage := ⟨5, 6, 9, 999, 1, payload⟩

/-- A unit 0 that has a command in progress and one waiting, with a record behind it. -/
def busy : State :=
  { schedule := [.run 0], held := [(0, .command { op := 0x9 }), (0, .wire [])], active := 0,
    responses := [(0, .error .shortFrame)], outcomes := [(0, .unsupportedType 3)] }

/-- `busy` after its move: one answer more, the waiting buffer now in progress. -/
def busyNext : State :=
  { schedule := [], held := [(0, .wire [])], active := 0,
    responses := [(0, .error .shortFrame), (0, .error .illegalOp)], outcomes := [(0, .unsupportedType 3)] }

theorem witness_DecodeOfEncodeIsTheInstruction : (Instr.reservedAB 0xA).WellFormed ∧ (Instr.reservedCF 0xF).WellFormed ∧
    (Instr.tileMessage 0xFFFF 0 [1]).WellFormed := by decide

theorem witness_DecodedItemsAreWellFormed : decodeItem (.command { op := 0xB }) = .ok (.reservedAB 0xB) ∧
    decodeItem (.wire [1, 2, 0, 0, 0, 0, 0, 0]) = .ok (.resultMessage 0 0 []) := ⟨rfl, rfl⟩

theorem witness_ClassifiedBufferReencodesExactly :
    decodeWire [1, 1, 0xFF, 0xFE, 1, 2, 3, 4, 5] = .ok (.activationMessage 0xFFFE 0x01020304 [5]) := rfl

/-- Both sides of each classification: 7 and 8 bytes, versions 0 and 255, types 3 and 255, the three message types. -/
theorem witness_BuffersClassifyByTheirFirstTwoBytes :
    decodeWire [1, 0, 0, 0, 0, 0, 0] = .error .tooShort ∧
    decodeWire [0, 0, 0, 0, 0, 0, 0, 0] = .error (.otherVersion 0) ∧
    decodeWire [255, 3, 0, 0, 0, 0, 0, 0] = .error (.otherVersion 255) ∧
    decodeWire [1, 3, 0, 0, 0, 0, 0, 0] = .error (.unassignedType 3) ∧
    decodeWire [1, 255, 0, 0, 0, 0, 0, 0] = .error (.unassignedType 255) ∧
    decodeWire [1, 0, 0, 0, 0, 0, 0, 0] = .ok (.tileMessage 0 0 []) ∧
    decodeWire [1, 1, 0, 1, 0, 0, 0, 0] = .ok (.activationMessage 1 0 []) ∧
    decodeWire [1, 2, 0, 0, 0, 0, 0, 1, 9] = .ok (.resultMessage 0 1 [9]) := ⟨rfl, rfl, rfl, rfl, rfl, rfl, rfl, rfl⟩

theorem witness_BigEndianConversionsAreInverse : (zeros 1).length = 1 ∧ (zeros 2).length = 2 ∧ (zeros 4).length = 4 ∧
    (zeros 8).length = 8 := by decide

/-- A record with each op a statement's first clause names. -/
theorem witness_operand_records : (({ op := 0x0 } : Command).op = 0x0) ∧ (({ op := 0x1 } : Command).op = 0x1) ∧
    (({ op := 0x2 } : Command).op = 0x2) ∧ (({ op := 0x3 } : Command).op = 0x3) ∧ (({ op := 0x4 } : Command).op = 0x4) ∧
    (({ op := 0x5 } : Command).op = 0x5) ∧ (({ op := 0x6 } : Command).op = 0x6) ∧ (({ op := 0x7 } : Command).op = 0x7) ∧
    (({ op := 0x8 } : Command).op = 0x8) ∧ 9 ≤ ({ op := 0x9 } : Command).op.toNat ∧
    9 ≤ ({ op := 0xF } : Command).op.toNat := by decide

theorem witness_CksumAnswersFirstSixteenHashBytes : ({ op := 0x0, data := [1] } : Command).op = 0x0 := rfl
theorem witness_FrameIsEnvelopeHeaderBody : ({ op := 0x1, mtype := 255 } : Command).op = 0x1 := rfl
theorem witness_DeframeFollowsItsFourSteps : ({ op := 0x2, buf := [1] } : Command).op = 0x2 := rfl
theorem witness_TileEncBuildsItsFrame : ({ op := 0x3, payload := [1] } : Command).op = 0x3 := rfl
theorem witness_TileDecUnpacksItsHeader : ({ op := 0x4, header := hT } : Command).op = 0x4 := rfl
theorem witness_ActEncBuildsItsFrame : ({ op := 0x5, payload := [1] } : Command).op = 0x5 := rfl
theorem witness_ActDecUnpacksItsHeader : ({ op := 0x6, header := hA } : Command).op = 0x6 := rfl
theorem witness_ResEncBuildsItsFrame : ({ op := 0x7, payload := [1] } : Command).op = 0x7 := rfl
theorem witness_ResDecUnpacksItsHeader : ({ op := 0x8, header := hR } : Command).op = 0x8 := rfl
theorem witness_ReservedOpsAnswerIllegalOp : 9 ≤ ({ op := 0x9 } : Command).op.toNat ∧
    9 ≤ ({ op := 0xF } : Command).op.toNat := by decide

theorem witness_FrameOutputReadsBack : (⟨7, zeros 65535, zeros 4294967295⟩ : Frame).header.length ≤ 65535 ∧
    (⟨7, zeros 65535, zeros 4294967295⟩ : Frame).body.length ≤ 4294967295 := by
  simp only [zeros_length]
  decide

theorem witness_OverlongLengthsAreRefused : (⟨0, zeros 65536, []⟩ : Frame).header.length > 65535 ∧
    (⟨0, [], zeros 4294967296⟩ : Frame).body.length > 4294967295 ∧
    (Message.tile (aTile (zeros 4294967296))).payload.length > 4294967295 ∧
    (Message.activation (anActivation (zeros 4294967296))).payload.length > 4294967295 ∧
    (Message.result (aResult (zeros 4294967296))).payload.length > 4294967295 := by
  simp only [Message.payload, aTile, anActivation, aResult, zeros_length]
  decide

/-- Seven bytes; eight bytes of version 2; eight bytes that declare one header byte. -/
theorem witness_DeframeChecksLengthThenVersion : ([2, 0, 0, 0, 0, 0, 0] : Bytes).length < 8 ∧
    (8 ≤ ([2, 0, 0, 0, 0, 0, 0, 0] : Bytes).length ∧ ([2, 0, 0, 0, 0, 0, 0, 0] : Bytes).getD 0 0 ≠ 1) ∧
    exec (.deframe [1, 0, 0, 1, 0, 0, 0, 0]) start = .next (start.respond (.error .incompleteFrame)) :=
  ⟨by decide, by decide, rfl⟩

/-- V-DF-13's frame cut to 7, 8 and 10 bytes. -/
theorem witness_TruncatedFrameIsRefused :
    exec (.frame ⟨9, [0xAA], [1, 2]⟩) start = .next (start.respond (.ok (.out [1, 9, 0, 1, 0, 0, 0, 2, 0xAA, 1, 2]))) ∧
    7 < ([1, 9, 0, 1, 0, 0, 0, 2, 0xAA, 1, 2] : Bytes).length ∧ 8 < ([1, 9, 0, 1, 0, 0, 0, 2, 0xAA, 1, 2] : Bytes).length ∧
    10 < ([1, 9, 0, 1, 0, 0, 0, 2, 0xAA, 1, 2] : Bytes).length := ⟨rfl, by decide, by decide, by decide⟩

/-- One trailing byte; two frames back to back, empty and not. -/
theorem witness_TrailingBytesAreIgnored :
    (8 ≤ ([1, 0, 0, 0, 0, 0, 0, 0, 5] : Bytes).length ∧ ([1, 0, 0, 0, 0, 0, 0, 0, 5] : Bytes).getD 0 0 = 1 ∧
      8 + fromBeNat (slice [1, 0, 0, 0, 0, 0, 0, 0, 5] 2 4) + fromBeNat (slice [1, 0, 0, 0, 0, 0, 0, 0, 5] 4 8) <
        ([1, 0, 0, 0, 0, 0, 0, 0, 5] : Bytes).length) ∧
    (⟨7, [0xAA], [0xBB]⟩ : Frame).Fits ∧ (⟨8, [], []⟩ : Frame).Fits :=
  ⟨by decide, ⟨by decide, by decide⟩, ⟨by decide, by decide⟩⟩

/-- One byte less than declared, and exactly as many. -/
theorem witness_DeclaredLengthsAddExactly : ([1] : Bytes).length < (1 : U16).toNat + (1 : U32).toNat ∧
    ([] : Bytes).length < (0xFFFF : U16).toNat + (0xFFFFFFFF : U32).toNat ∧
    (1 : U16).toNat + (1 : U32).toNat ≤ ([1, 2] : Bytes).length ∧ (0 : U16).toNat + (0 : U32).toNat ≤ ([] : Bytes).length :=
  ⟨by decide, by decide, by decide, by decide⟩

theorem witness_FrameAndDeframeUndoEachOther : ((zeros 65535).length ≤ 65535 ∧ (zeros 4294967295).length ≤ 4294967295) ∧
    exec (.deframe [1, 9, 0, 1, 0, 0, 0, 2, 0xAA, 1, 2, 0xEE]) start =
      .next (start.respond (.ok (.frame ⟨9, [0xAA], [1, 2]⟩))) :=
  ⟨⟨Nat.le_of_eq (zeros_length _), Nat.le_of_eq (zeros_length _)⟩, rfl⟩

theorem witness_EncodedMessageLayout : (Message.tile (aTile (zeros 4294967295))).payload.length ≤ 4294967295 ∧
    (Message.activation (anActivation [])).payload.length ≤ 4294967295 ∧
    (Message.result (aResult [0xAB])).payload.length ≤ 4294967295 :=
  ⟨Nat.le_of_eq (zeros_length _), by decide, by decide⟩

theorem witness_TileRoundTrip : (aTile (zeros 4294967295)).payload.length ≤ 4294967295 := Nat.le_of_eq (zeros_length _)
theorem witness_ActivationRoundTrip : (anActivation (zeros 4294967295)).payload.length ≤ 4294967295 :=
  Nat.le_of_eq (zeros_length _)
theorem witness_ResultRoundTrip : (aResult (zeros 4294967295)).payload.length ≤ 4294967295 :=
  Nat.le_of_eq (zeros_length _)

theorem witness_DecodeOfEncodeReturnsTheMessage :
    (Message.tile (aTile (zeros 100))).payload.length ≤ 4294967295 ∧
    (Message.activation (anActivation [0x78])).payload.length ≤ 4294967295 ∧
    (Message.result (aResult (zeros 4294967295))).payload.length ≤ 4294967295 :=
  ⟨by decide, by decide, Nat.le_of_eq (zeros_length _)⟩

/-- A message with a payload that fits is encoded, to some output. -/
theorem encodes (m : Message) (h : m.payload.length ≤ 4294967295) (s : State) :
    ∃ out, exec (encodeInstr m) s = .next (s.respond (.ok (.out out))) := by
  have h : m.payload.length ≤ Config.BLEN_MAX := h
  exact ⟨_, by rw [Laws.exec_encodeInstr, if_pos h]⟩

/-- One byte short and one over, for each decoder; a Tile frame retyped as Result. -/
theorem witness_WrongHeaderLengthIsRefused :
    ((zeros 33).length ≠ 34 ∧ (zeros 35).length ≠ 34 ∧ (zeros 47).length ≠ 48 ∧ (zeros 49).length ≠ 48 ∧
      (zeros 32).length ≠ 33 ∧ (zeros 34).length ≠ 33) ∧
    ∃ out, exec (encodeInstr (.tile (aTile [5]))) start = .next (start.respond (.ok (.out out))) ∧
      (2 : U8).toNat < 3 ∧ (2 : U8) ≠ (Message.tile (aTile [5])).mtype := by
  obtain ⟨out, h⟩ := encodes (.tile (aTile [5])) (by decide) start
  exact ⟨by decide, out, h, by decide, by decide⟩

/-- Every scalar, the tag and the payload byte of a Result message replaced. -/
theorem witness_CorruptionIsNotDetected : ∃ out,
    exec (encodeInstr (.result (aResult [0xAB]))) start = .next (start.respond (.ok (.out out))) ∧
    (Message.result ⟨0, 0, 0, 0, 255, [0xAC]⟩).mtype = (Message.result (aResult [0xAB])).mtype ∧
    (Message.result ⟨0, 0, 0, 0, 255, [0xAC]⟩).payload.length = (Message.result (aResult [0xAB])).payload.length ∧
    (zeros 4).length = (Message.result (aResult [0xAB])).tagLength := by
  obtain ⟨out, h⟩ := encodes (.result (aResult [0xAB])) (by decide) start
  exact ⟨out, h, rfl, rfl, rfl⟩

/-- Two Activation messages with one payload, encoded in two states. -/
theorem witness_TagDependsOnThePayloadAlone : ∃ out out',
    (Message.activation ⟨0, 0, 0, 0, [0x78]⟩).mtype = (Message.activation (anActivation [0x78])).mtype ∧
    (Message.activation ⟨0, 0, 0, 0, [0x78]⟩).payload = (Message.activation (anActivation [0x78])).payload ∧
    exec (encodeInstr (.activation (anActivation [0x78]))) start = .next (start.respond (.ok (.out out))) ∧
    exec (encodeInstr (.activation ⟨0, 0, 0, 0, [0x78]⟩)) busy = .next (busy.respond (.ok (.out out'))) := by
  obtain ⟨out, h⟩ := encodes (.activation (anActivation [0x78])) (by decide) start
  obtain ⟨out', h'⟩ := encodes (.activation ⟨0, 0, 0, 0, [0x78]⟩) (by decide) busy
  exact ⟨out, out', rfl, rfl, h, h'⟩

/-- Headers of the three lengths, and a tag byte that differs from the digest, which the check tells. -/
theorem witness_HostCanCheckTheTag_headers : (zeros 34).length = 34 ∧ (zeros 48).length = 48 ∧ (zeros 33).length = 33 ∧
    hostIntegrityCheck 0 (zeros 34) (Vector.replicate 16 1) = some false ∧
    hostIntegrityCheck 1 (zeros 48) (Vector.replicate 16 0) = some true ∧
    hostIntegrityCheck 2 (zeros 33) (Vector.replicate 16 1) = some false := by decide

theorem witness_HostCanCheckTheTag : ∃ out f d,
    exec (encodeInstr (.tile (aTile [5]))) start = .next (start.respond (.ok (.out out))) ∧
    exec (.deframe out) start = .next (start.respond (.ok (.frame f))) ∧
    exec (.cksum f.body) start = .next (start.respond (.ok (.digest d))) := by
  have h : (Message.tile (aTile [5])).payload.length ≤ Config.BLEN_MAX := by decide
  have hl : (tileScalars (aTile [5]) ++ tag 8 [5]).length = 34 := by
    rw [List.length_append, Laws.tileScalars_length, Laws.tag_length _ (by decide)]
  have hf : (⟨0, tileScalars (aTile [5]) ++ tag 8 [5], [5]⟩ : Frame).Fits :=
    ⟨Nat.le_trans (Nat.le_of_eq hl) (by decide), by decide⟩
  have hd := Laws.deframeResponse_frameBytes hf []
  rw [List.append_nil] at hd
  exact ⟨frameBytes ⟨0, tileScalars (aTile [5]) ++ tag 8 [5], [5]⟩, ⟨0, tileScalars (aTile [5]) ++ tag 8 [5], [5]⟩,
    ck16 [5], by rw [Laws.exec_encodeInstr, if_pos h]; rfl, congrArg (fun r => answer r start) hd, rfl⟩

/-- Cut by one byte; a header of 33 bytes; a full header with a junk tag and a trailing byte. -/
theorem witness_TileFrameIsDecoded : (zeros 34).length < (34 : U16).toNat + (1 : U32).toNat ∧
    ((33 : U16).toNat + (1 : U32).toNat ≤ (zeros 34).length ∧ (33 : U16).toNat ≠ 34) ∧
    ((zeros 8).length = 8 ∧ (aTile [5]).payload.length = (1 : U32).toNat ∧ (34 : U16).toNat = 34) := by decide
theorem witness_ActivationFrameIsDecoded : (zeros 48).length < (48 : U16).toNat + (1 : U32).toNat ∧
    ((32 : U16).toNat + (1 : U32).toNat ≤ (zeros 33).length ∧ (32 : U16).toNat ≠ 48) ∧
    ((zeros 16).length = 16 ∧ (anActivation [5]).payload.length = (1 : U32).toNat ∧ (48 : U16).toNat = 48) := by decide
theorem witness_ResultFrameIsDecoded : (zeros 33).length < (33 : U16).toNat + (1 : U32).toNat ∧
    ((34 : U16).toNat + (1 : U32).toNat ≤ (zeros 35).length ∧ (34 : U16).toNat ≠ 33) ∧
    ((zeros 4).length = 4 ∧ (aResult [5]).payload.length = (1 : U32).toNat ∧ (33 : U16).toNat = 33) := by decide

theorem witness_DecodeWithoutACodecEndsAtDeframe : ((⟨3, [1], []⟩ : Frame).Fits ∧ 3 ≤ (⟨3, [1], []⟩ : Frame).mtype.toNat) ∧
    ((⟨255, [], []⟩ : Frame).Fits ∧ 3 ≤ (⟨255, [], []⟩ : Frame).mtype.toNat) ∧ (zeros 7).length < 8 ∧
    (8 ≤ (zeros 8).length ∧ (zeros 8).getD 0 0 ≠ 1) ∧
    (8 ≤ ([1, 3, 0, 1, 0, 0, 0, 0] : Bytes).length ∧ ([1, 3, 0, 1, 0, 0, 0, 0] : Bytes).getD 0 0 = 1 ∧
      ([1, 3, 0, 1, 0, 0, 0, 0] : Bytes).length <
        8 + declaredHeader [1, 3, 0, 1, 0, 0, 0, 0] + declaredBody [1, 3, 0, 1, 0, 0, 0, 0]) :=
  ⟨⟨⟨by decide, by decide⟩, by decide⟩, ⟨⟨by decide, by decide⟩, by decide⟩, by decide, by decide, by decide⟩

theorem witness_DecodeIsDeframeThenTheSelectedDecoder :
    exec (.deframe ([1, 2, 0, 33, 0, 0, 0, 0] ++ hR)) start = .next (start.respond (.ok (.frame ⟨2, hR, []⟩))) ∧
    decoderFor 2 = some .resDec ∧
    exec (.resDec hR []) (start.respond (.ok (.frame ⟨2, hR, []⟩))) =
      .next ((start.respond (.ok (.frame ⟨2, hR, []⟩))).respond (.ok (.message (.result ⟨5, 6, 9, 999, 1, []⟩)))) :=
  ⟨rfl, rfl, rfl⟩

/-- One record per row of the table, the DEFRAME ones at the edges of its four cases. -/
theorem witness_StatusTable :
    exec (decodeCommand { op := 0x0 }) start = .next (start.respond (.ok (.digest (ck16 [])))) ∧
    exec (decodeCommand { op := 0x1 }) start = .next (start.respond (.ok (.out [1, 0, 0, 0, 0, 0, 0, 0]))) ∧
    exec (decodeCommand { op := 0x2, buf := zeros 7 }) start = .next (start.respond (.error .shortFrame)) ∧
    exec (decodeCommand { op := 0x2, buf := zeros 8 }) start = .next (start.respond (.error .versionMismatch)) ∧
    exec (decodeCommand { op := 0x2, buf := [1, 0, 0, 0, 0, 0, 0, 1] }) start =
      .next (start.respond (.error .incompleteFrame)) ∧
    exec (decodeCommand { op := 0x2, buf := [1, 0, 0, 0, 0, 0, 0, 0] }) start =
      .next (start.respond (.ok (.frame ⟨0, [], []⟩))) ∧
    (∃ out, exec (decodeCommand { op := 0x3 }) start = .next (start.respond (.ok (.out out)))) ∧
    (∃ out, exec (decodeCommand { op := 0x5 }) start = .next (start.respond (.ok (.out out)))) ∧
    (∃ out, exec (decodeCommand { op := 0x7 }) start = .next (start.respond (.ok (.out out)))) ∧
    exec (decodeCommand { op := 0x4, header := zeros 33 }) start = .next (start.respond (.error (.badHeaderSize 34))) ∧
    exec (decodeCommand { op := 0x6, header := zeros 32 }) start = .next (start.respond (.error (.badHeaderSize 48))) ∧
    exec (decodeCommand { op := 0x8, header := hR }) start =
      .next (start.respond (.ok (.message (.result ⟨5, 6, 9, 999, 1, []⟩)))) ∧
    exec (decodeCommand { op := 0x9 }) start = .next (start.respond (.error .illegalOp)) :=
  ⟨rfl, rfl, rfl, rfl, rfl, rfl, encodes (.tile ⟨0, 0, 0, 0, 0, []⟩) (by decide) start,
    encodes (.activation ⟨0, 0, 0, 0, []⟩) (by decide) start, encodes (.result ⟨0, 0, 0, 0, 0, []⟩) (by decide) start,
    rfl, rfl, rfl, rfl⟩

theorem witness_StatusCodesTellTheOutcome : (Error.badHeaderSize 34).code = (Error.badHeaderSize 48).code := rfl

/-- A decoded command, a decoded buffer and a rejected buffer in progress on unit 0. -/
theorem witness_StepRunsTheDecodedInstruction :
    (busy.schedule = .run 0 :: [] ∧ unitExists 0 = true ∧ firstHeld 0 busy.held = some (.command { op := 0x9 }) ∧
      decodeItem (.command { op := 0x9 }) = .ok .reserved9) ∧
    (firstHeld 0 (start.withFetchItem (.wire [1, 1, 0, 0, 0, 0, 0, 0])).held = some (.wire [1, 1, 0, 0, 0, 0, 0, 0]) ∧
      decodeItem (.wire [1, 1, 0, 0, 0, 0, 0, 0]) = .ok (.activationMessage 0 0 [])) ∧
    (firstHeld 0 (start.withFetchItem (.wire [])).held = some (.wire []) ∧ decodeWire [] = .error .tooShort) :=
  ⟨⟨rfl, rfl, rfl, rfl⟩, ⟨rfl, rfl⟩, ⟨rfl, rfl⟩⟩

/-- No move scheduled: a decoded command, then a rejected buffer, is the oldest item; a run of a unit that holds nothing;
nothing left to do. -/
theorem witness_StepRunsTheDecodedInstruction_unscheduled :
    ({ busy with schedule := [] }.held = (0, .command { op := 0x9 }) :: [(0, .wire [])] ∧ unitExists 0 = true) ∧
    busyNext.schedule = [] ∧ busyNext.held = (0, .wire []) :: [] ∧
    ({ start with schedule := [.run 0] }.schedule = .run 0 :: [] ∧
      firstHeld 0 { start with schedule := [.run 0] }.held = none) ∧
    start.schedule = [] ∧ start.held = [] := ⟨⟨rfl, rfl⟩, rfl, rfl, ⟨rfl, rfl⟩, rfl, rfl⟩

theorem witness_TableWordRunsNext : decodeTableWord 8 0xF = some (.reservedCF 0xF) ∧
    decodeTableWord 64 0x0102002100000032 = some (.resultMessage 33 50 []) := by decide

theorem witness_IssueThenRunExecutes : unitExists 0 = true ∧ (start.view 0).held = [] := ⟨rfl, rfl⟩
theorem witness_ResetDropsTheCommandInProgress : (unitExists 0 = true ∧ (start.view 0).held = []) ∧
    (unitExists 0 = true ∧ (busy.view 0).held = [.command { op := 0x9 }, .wire []]) := ⟨⟨rfl, rfl⟩, ⟨rfl, rfl⟩⟩

theorem witness_BusyUnitKeepsItsCommand : unitExists 0 = true ∧
    { busy with schedule := [.issue 0 (.wire [])] }.schedule = .issue 0 (.wire []) :: [] ∧
    firstHeld 0 { busy with schedule := [.issue 0 (.wire [])] }.held = some (.command { op := 0x9 }) := ⟨rfl, rfl, rfl⟩

theorem witness_StepLeavesOtherUnitsAlone : busy.nextMove = some (.run 0, []) ∧ step busy = .next busyNext ∧
    1 ≠ (Move.run 0).unit ∧ busyNext.nextMove = some (.run 0, []) := ⟨rfl, rfl, by decide, rfl⟩

/-- Two states that agree on unit 0 and on nothing else. -/
theorem witness_MoveDependsOnItsOwnUnitAlone :
    let other : State := { busy with held := (1, .wire [1]) :: busy.held, active := 1, schedule := [.run 0, .reset 1] }
    busy.nextMove = some (.run 0, []) ∧ other.nextMove = some (.run 0, [.reset 1]) ∧
    busy.view (Move.run 0).unit = other.view (Move.run 0).unit ∧ step busy = .next busyNext ∧
    step other = .next { busyNext with held := [(1, .wire [1]), (0, .wire [])], schedule := [.reset 1] } :=
  ⟨rfl, rfl, rfl, rfl, rfl⟩

/-- Two different units; the branch with a unit the build lacks; and, in every build of two units or more, the other. -/
theorem witness_MovesOfDifferentUnitsCommute : (Move.run 0).unit ≠ (Move.issue 1 (.wire [])).unit ∧
    ((Move.run 0).unit ≠ (Move.run Config.nUnits).unit ∧ unitExists (Move.run Config.nUnits).unit = false) ∧
    (2 ≤ Config.nUnits → unitExists (Move.run 0).unit = true ∧ unitExists (Move.issue 1 (.wire [])).unit = true) := by
  refine ⟨by decide, ⟨?_, ?_⟩, fun h => ⟨rfl, (Laws.unitExists_iff 1).mpr h⟩⟩
  · simp [Move.unit, Config.nUnits]
  · rw [← Bool.not_eq_true, Laws.unitExists_iff]
    simp [Move.unit]

theorem witness_ResponsesAreThoseOfTheUnitsOwnItem : busy.schedule = .run 0 :: [] ∧
    firstHeld 0 busy.held = some (.command { op := 0x9 }) ∧ step busy = .next busyNext := ⟨rfl, rfl, rfl⟩

/-- The invariant holds of a state with a record and commands in flight, and that state steps. -/
theorem witness_StepKeepsTheRecordLegal : busy.Inv ∧ step busy = .next busyNext := by
  refine ⟨⟨?_, ?_, ?_⟩, rfl⟩ <;> simp [busy, Response.Legal, DecodeOutcome.Legal, unitExists]

theorem witness_RecordsOnlyGrow : step busy = .next busyNext := rfl

/-- One scheduled move and two items: four steps are enough. -/
theorem witness_EveryRunEndsWithNothingInFlight : (∀ m ∈ busy.schedule, unitExists m.unit = true) ∧
    (∀ p ∈ busy.held, unitExists p.1 = true) ∧ 2 * busy.schedule.length + busy.held.length ≤ 4 := by decide

theorem witness_EveryOutstandingCommandGetsItsOneResponse : busyNext.schedule = [] ∧
    (∀ p ∈ busyNext.held, unitExists p.1 = true) := by decide

/-- A unit the build has, and one it has not. -/
theorem witness_StepStopsOnlyForAnAbsentUnit :
    (∃ s', step busy = .next s') ∧
    step { busy with schedule := [.run Config.nUnits] } = .fault .noSuchUnit := by
  refine ⟨⟨busyNext, rfl⟩, ?_⟩
  rw [Laws.step_of_schedule rfl, if_neg]
  simp [Laws.unitExists_iff, Move.unit]

end Sys2Proof.Tests
end

section
/-! PROOFS. Family 00_scope.md: big-endian conversion (R13). -/

namespace Sys2Proof.Proofs.Scope

open Machine

/-- Settles O7: `from_be` of `be_N` is the sum of R13 at each width; for `be_N` of `from_be` a sequence of the given
length is written out byte by byte, and each byte is read off that sum. -/
theorem bigEndianConversionsAreInverse : Obligations.BigEndianConversionsAreInverse := by
  unfold Obligations.BigEndianConversionsAreInverse
  refine ⟨Laws.fromBe_be_eight, Laws.fromBe_be_sixteen, Laws.fromBe_be_thirtytwo, Laws.fromBe_be_sixtyfour,
    ?bytes1, ?bytes2, ?bytes4, ?bytes8⟩
  case bytes1 =>
    intro b hb
    match b, hb with
    | [a], _ => exact Laws.be_fromBe_eight a
  case bytes2 =>
    intro b hb
    match b, hb with
    | [a₀, a₁], _ => exact Laws.be_fromBe_sixteen a₀ a₁
  case bytes4 =>
    intro b hb
    match b, hb with
    | [a₀, a₁, a₂, a₃], _ => exact Laws.be_fromBe_thirtytwo a₀ a₁ a₂ a₃
  case bytes8 =>
    intro b hb
    match b, hb with
    | [a₀, a₁, a₂, a₃, a₄, a₅, a₆, a₇], _ => exact Laws.be_fromBe_sixtyfour a₀ a₁ a₂ a₃ a₄ a₅ a₆ a₇

end Sys2Proof.Proofs.Scope
end

section
/-! PROOFS. Family 10_state.md: no state between commands (R27), the reset state (R23, R34). -/

namespace Sys2Proof.Proofs.UnitState

open Machine

/-! ## What an instruction and an item record -/

theorem frameResponse_answers (f : Frame) : ∃ r, frameResponse f = some r := by
  by_cases h : f.Fits
  · exact ⟨_, Laws.frameResponse_of_fits h⟩
  · exact ⟨_, Laws.frameResponse_of_not_fits h⟩

/-- DEFRAME answers an error or the parts of a frame, nothing else (41_frame.md R105). -/
theorem deframeResponse_cases (buf : Bytes) :
    (∃ e, deframeResponse buf = some (.error e)) ∨ ∃ f, deframeResponse buf = some (.ok (.frame f)) := by
  rw [Laws.deframeResponse_eq]
  split
  · exact .inl ⟨_, rfl⟩
  · split
    · exact .inl ⟨_, rfl⟩
    · split
      · exact .inl ⟨_, rfl⟩
      · exact .inr ⟨_, rfl⟩

/-- An instruction whose meaning ends with the answer `x`, which is some response, gives that response in every state. -/
theorem responds_of_answer {i : Instr} {x : Option Response} {r : Response} (hx : x = some r)
    (h : ∀ s, exec i s = answer x s) : ∃ r, ∀ s, exec i s = .next (s.respond r) :=
  ⟨r, fun s => by rw [h, hx, Laws.answer_some]⟩

/-- An instruction that is a command gives one response, the same in every state. -/
theorem exec_responds_of_encode_command {i : Instr} {c : Command} (h : encode i = .command c) :
    ∃ r, ∀ s, exec i s = .next (s.respond r) := by
  cases i with
  | cksum data => exact ⟨_, fun _ => rfl⟩
  | frame f =>
    obtain ⟨r, hr⟩ := frameResponse_answers f
    exact responds_of_answer hr fun _ => rfl
  | deframe buf => exact responds_of_answer (Laws.deframeResponse_eq buf) fun _ => rfl
  | tileEnc m => exact responds_of_answer (Laws.tileEncResponse_eq m) fun _ => rfl
  | tileDec header body => exact responds_of_answer (Laws.tileDecResponse_eq header body) fun _ => rfl
  | actEnc m => exact responds_of_answer (Laws.actEncResponse_eq m) fun _ => rfl
  | actDec header body => exact responds_of_answer (Laws.actDecResponse_eq header body) fun _ => rfl
  | resEnc m => exact responds_of_answer (Laws.resEncResponse_eq m) fun _ => rfl
  | resDec header body => exact responds_of_answer (Laws.resDecResponse_eq header body) fun _ => rfl
  | reserved9 => exact ⟨_, fun _ => rfl⟩
  | reservedAB op => exact ⟨_, fun _ => rfl⟩
  | reservedCF op => exact ⟨_, fun _ => rfl⟩
  | tileMessage headerLength bodyLength rest => cases h
  | activationMessage headerLength bodyLength rest => cases h
  | resultMessage headerLength bodyLength rest => cases h

/-- A record decodes to a command, never to a wire frame. -/
theorem encode_decodeCommand_eq_command (c : Command) : ∃ c', encode (decodeCommand c) = .command c' := by
  unfold decodeCommand
  split <;> exact ⟨_, rfl⟩

theorem exec_decodeCommand_responds (c : Command) : ∃ r, ∀ s, exec (decodeCommand c) s = .next (s.respond r) := by
  obtain ⟨c', hc⟩ := encode_decodeCommand_eq_command c
  exact exec_responds_of_encode_command hc

/-- DECODE records one or two responses and one outcome, the same in every state (45_flows_and_properties.md R151,
R152). -/
theorem decodeFlow_records (buf : Bytes) :
    ∃ rs os, rs ≠ [] ∧ ∀ s, decodeFlow buf s = .next (s.record rs os) := by
  obtain ⟨e, he⟩ | ⟨f, hf⟩ := deframeResponse_cases buf
  · exact ⟨[.error e], [.response (.error e)], by simp, Laws.decodeFlow_of_error he⟩
  · cases hd : decoderResponse f.mtype with
    | none => exact ⟨[.ok (.frame f)], [.unsupportedType f.mtype], by simp, Laws.decodeFlow_of_unassigned hf hd⟩
    | some decoder =>
      have answers : ∃ r, decoder f.header f.body = some r := by
        obtain ⟨m, hm⟩ | ⟨n, hn, -⟩ := Laws.decoderResponse_answers hd f.header f.body
        · exact ⟨_, hm⟩
        · exact ⟨_, hn⟩
      obtain ⟨r, hr⟩ := answers
      refine ⟨[.ok (.frame f), r], [.response r], by simp, fun s => ?_⟩
      rw [Laws.decodeFlow_of_decoder hf hd hr, Laws.conclude_respond_respond_eq_record]

/-- Executing an item adds to the record what the item alone determines, and changes nothing else. -/
theorem execItem_records (item : Item) :
    ∃ rs os, rs ≠ [] ∧ ∀ s, execItem item s = .next (s.record rs os) := by
  cases item with
  | command c =>
    obtain ⟨r, hr⟩ := exec_decodeCommand_responds c
    refine ⟨[r], [], by simp, fun s => ?_⟩
    rw [← Laws.respond_eq_record]
    exact hr s
  | wire buf =>
    obtain ⟨rs, os, hne, hrec⟩ := decodeFlow_records buf
    exact ⟨rs, os, hne, fun s => (Laws.execItem_wire buf s).trans (hrec s)⟩

/-- Settles O40: a record decodes to a command, and the meaning of every command ends with an answer that is chosen
before the state. -/
theorem responseIsAFunctionOfTheCommand : Obligations.ResponseIsAFunctionOfTheCommand := by
  unfold Obligations.ResponseIsAFunctionOfTheCommand
  exact exec_decodeCommand_responds

/-! ## What a move does to its own unit's view -/

/-- A step that completes has made its next move. -/
theorem makeMove_of_step {s s' : State} {m : Move} {rest : List Move} (h : s.nextMove = some (m, rest))
    (hs : step s = .next s') : makeMove m { s with schedule := rest } = .next s' := by
  rw [Laws.step_of_nextMove h] at hs
  split at hs
  · exact hs
  · cases hs

theorem runUnit_of_idle {s : State} {u : Nat} (h : (s.view u).held.head? = none) : runUnit u s = .next s := by
  have hf : firstHeld u s.held = none := (Laws.firstHeld_eq_head? u s.held).trans h
  simp [runUnit, hf]

theorem runUnit_of_busy {s : State} {u : Nat} {item : Item} (h : (s.view u).held.head? = some item) :
    runUnit u s = execItem item { s.dropCurrent u with active := u } := by
  have hf : firstHeld u s.held = some item := (Laws.firstHeld_eq_head? u s.held).trans h
  simp [runUnit, hf]

/-- A unit's view after a run move that recorded `rs` and `os`: its oldest item is gone, and the record has grown. -/
theorem record_dropCurrent_view (s : State) (u : Nat) (rs : List Response) (os : List DecodeOutcome) :
    (State.record { s.dropCurrent u with active := u } rs os).view u =
      { held := (s.view u).held.tail, responses := (s.view u).responses ++ rs,
        outcomes := (s.view u).outcomes ++ os } := by
  have hdrop : State.view { s.dropCurrent u with active := u } u = { s.view u with held := (s.view u).held.tail } :=
    Laws.dropCurrent_view_self s u
  rw [Laws.record_view, if_pos rfl, hdrop]

theorem runUnit_view_congr {s t s' t' : State} {u : Nat} (hv : s.view u = t.view u)
    (hs : runUnit u s = .next s') (ht : runUnit u t = .next t') : s'.view u = t'.view u := by
  cases hi : (s.view u).held.head? with
  | none =>
    rw [runUnit_of_idle hi] at hs
    rw [runUnit_of_idle (hv ▸ hi)] at ht
    cases hs
    cases ht
    exact hv
  | some item =>
    obtain ⟨rs, os, -, hrec⟩ := execItem_records item
    rw [runUnit_of_busy hi, hrec] at hs
    rw [runUnit_of_busy (hv ▸ hi), hrec] at ht
    cases hs
    cases ht
    rw [record_dropCurrent_view, record_dropCurrent_view, hv]

/-- What a move makes of its unit's view depends on that view alone. -/
theorem makeMove_view_congr {s t s' t' : State} {m : Move} (hv : s.view m.unit = t.view m.unit)
    (hs : makeMove m s = .next s') (ht : makeMove m t = .next t') : s'.view m.unit = t'.view m.unit := by
  cases m with
  | issue u item =>
    change s.view u = t.view u at hv
    cases hs
    cases ht
    show (s.present u item).view u = (t.present u item).view u
    rw [Laws.present_view_self, Laws.present_view_self, hv]
  | run u => exact runUnit_view_congr hv hs ht
  | reset u =>
    change s.view u = t.view u at hv
    cases hs
    cases ht
    show (s.dropCurrent u).view u = (t.dropCurrent u).view u
    rw [Laws.dropCurrent_view_self, Laws.dropCurrent_view_self, hv]

/-- Settles O51: both steps make the same move, and a view does not see the schedule that is left. -/
theorem moveDependsOnItsOwnUnitAlone : Obligations.MoveDependsOnItsOwnUnitAlone := by
  unfold Obligations.MoveDependsOnItsOwnUnitAlone
  intro s t s' t' m rest rest' hs ht hv hstep hstep'
  have hrest : State.view { s with schedule := rest } m.unit = State.view { t with schedule := rest' } m.unit := hv
  exact makeMove_view_congr hrest (makeMove_of_step hs hstep) (makeMove_of_step ht hstep')

/-! ## The reset state -/

/-- The base case of the invariant: after reset there is no entry that could break it. -/
theorem reset_inv : State.reset.Inv := by
  refine ⟨?responses, ?outcomes, ?held⟩ <;> exact fun _ hp => absurd hp List.not_mem_nil

/-- Settles O55: the reset state meets the invariant, and the other facts are read off its fields. -/
theorem resetLeavesNothingInFlight : Obligations.ResetLeavesNothingInFlight := by
  unfold Obligations.ResetLeavesNothingInFlight
  exact ⟨reset_inv, rfl, rfl, rfl, rfl, fun _ => rfl⟩

end Sys2Proof.Proofs.UnitState
end

section
/-! PROOFS. Family 20_memory.md: a command leaves its response and nothing else (R46, R47), no interleaving matters
(R51). -/

namespace Sys2Proof.Proofs.Memory

open Machine UnitState

/-! ## What an instruction leaves -/

/-- An instruction that is a wire row is the DECODE of the frame it is encoded as (log 8). -/
theorem exec_eq_decodeFlow_of_encode_wire :
    ∀ {i : Instr} {buf : Bytes}, encode i = .wire buf → ∀ s, exec i s = decodeFlow buf s
  | .tileMessage _ _ _, _, rfl, _ => rfl
  | .activationMessage _ _ _, _, rfl, _ => rfl
  | .resultMessage _ _ _, _, rfl, _ => rfl

/-- Settles O41: an instruction is encoded as a command, which gives one response, or as a frame, which goes through
DECODE; both record what was chosen before the state. -/
theorem everyInstructionOnlyRecords : Obligations.EveryInstructionOnlyRecords := by
  unfold Obligations.EveryInstructionOnlyRecords
  intro i
  cases h : encode i with
  | command c =>
    obtain ⟨r, hr⟩ := exec_responds_of_encode_command h
    exact ⟨[r], [], by simp, fun s => by rw [hr, Laws.respond_eq_record]⟩
  | wire buf =>
    obtain ⟨rs, os, hne, hrec⟩ := decodeFlow_records buf
    exact ⟨rs, os, hne, fun s => (exec_eq_decodeFlow_of_encode_wire h s).trans (hrec s)⟩

/-! ## What a move leaves -/

/-- A run of a unit whose oldest item is `item` records under the unit what that item gives in every state, and the item
leaves. -/
theorem runUnit_records (item : Item) : ∃ rs os, (∀ t, execItem item t = .next (t.record rs os)) ∧
    ∀ s u, firstHeld u s.held = some item →
      runUnit u s = .next (State.record { s.dropCurrent u with active := u } rs os) := by
  obtain ⟨rs, os, -, hrec⟩ := execItem_records item
  refine ⟨rs, os, hrec, fun s u h => ?_⟩
  rw [runUnit_of_busy ((Laws.firstHeld_eq_head? u s.held).symm.trans h), hrec]

/-- Settles O53: the step has run the unit, and a run records what the item gives in every state. -/
theorem responsesAreThoseOfTheUnitsOwnItem : Obligations.ResponsesAreThoseOfTheUnitsOwnItem := by
  unfold Obligations.ResponsesAreThoseOfTheUnitsOwnItem
  intro s s' t u item rest hsched hitem hstep
  obtain ⟨rs, os, hrec, hrun⟩ := runUnit_records item
  have hmove : runUnit u { s with schedule := rest } = .next s' :=
    makeMove_of_step (Laws.nextMove_of_schedule hsched) hstep
  cases (hrun { s with schedule := rest } u hitem).symm.trans hmove
  exact ⟨rs, os, hrec t, rfl, rfl, rfl⟩

/-- Another unit's view after a run move is as it was. -/
theorem record_dropCurrent_view_other (s : State) {u v : Nat} (h : v ≠ u) (rs : List Response)
    (os : List DecodeOutcome) :
    (State.record { s.dropCurrent u with active := u } rs os).view v = s.view v := by
  rw [Laws.record_view, if_neg h.symm]
  exact Laws.dropCurrent_view_other s h

/-- Every move completes, and leaves the schedule and every other unit as they were (20_memory.md R51). -/
theorem makeMove_completes (m : Move) (s : State) :
    ∃ t, makeMove m s = .next t ∧ t.schedule = s.schedule ∧ ∀ v, v ≠ m.unit → t.view v = s.view v := by
  cases m with
  | issue u item =>
    exact ⟨_, rfl, Laws.present_schedule s u item, fun v hv => Laws.present_view_other s hv item⟩
  | run u =>
    cases hi : firstHeld u s.held with
    | none => exact ⟨s, by simp [makeMove, runUnit, hi], rfl, fun _ _ => rfl⟩
    | some item =>
      obtain ⟨rs, os, -, hrun⟩ := runUnit_records item
      exact ⟨_, hrun s u hi, rfl, fun v hv => record_dropCurrent_view_other s hv rs os⟩
  | reset u => exact ⟨_, rfl, rfl, fun v hv => Laws.dropCurrent_view_other s hv⟩

/-- What a move does has nothing to do with the moves scheduled after it. -/
theorem makeMove_withSchedule {m : Move} {s t : State} (h : makeMove m s = .next t) (rest : List Move) :
    makeMove m { s with schedule := rest } = .next { t with schedule := rest } := by
  cases m with
  | issue u item =>
    cases h
    simp only [makeMove, State.present]
    split <;> rfl
  | run u =>
    change runUnit u s = _ at h
    show runUnit u { s with schedule := rest } = _
    cases hi : firstHeld u s.held with
    | none =>
      simp only [runUnit, hi] at h ⊢
      cases h
      rfl
    | some item =>
      obtain ⟨rs, os, -, hrun⟩ := runUnit_records item
      rw [hrun s u hi] at h
      cases h
      exact hrun { s with schedule := rest } u hi
  | reset u =>
    cases h
    rfl

/-! ## Two moves in a row -/

/-- A move gives its unit the same view whether another unit's move comes after it or before it. -/
theorem view_of_move_then_other_eq {s a b c d : State} {m m' : Move} (hne : m.unit ≠ m'.unit)
    (ha : makeMove m s = .next a) (hb : makeMove m' a = .next b)
    (hc : makeMove m' s = .next c) (hd : makeMove m c = .next d) : b.view m.unit = d.view m.unit := by
  have others {x y : State} (h : makeMove m' x = .next y) : y.view m.unit = x.view m.unit := by
    obtain ⟨t, ht, -, hv⟩ := makeMove_completes m' x
    rw [h] at ht
    cases ht
    exact hv _ hne
  rw [others hb]
  exact makeMove_view_congr (others hc).symm ha hd

/-- Moves of two different units, in either order, complete and agree on the schedule and on every unit's view. -/
theorem makeMove_comm (s : State) {m₁ m₂ : Move} (hne : m₁.unit ≠ m₂.unit) :
    ∃ a b c d, makeMove m₁ s = .next a ∧ makeMove m₂ a = .next b ∧
      makeMove m₂ s = .next c ∧ makeMove m₁ c = .next d ∧
      b.schedule = d.schedule ∧ ∀ u, b.view u = d.view u := by
  obtain ⟨a, ha, sa, va⟩ := makeMove_completes m₁ s
  obtain ⟨b, hb, sb, vb⟩ := makeMove_completes m₂ a
  obtain ⟨c, hc, sc, vc⟩ := makeMove_completes m₂ s
  obtain ⟨d, hd, sd, vd⟩ := makeMove_completes m₁ c
  refine ⟨a, b, c, d, ha, hb, hc, hd, by rw [sb, sa, sd, sc], fun u => ?_⟩
  by_cases h₁ : u = m₁.unit
  · rw [h₁]
    exact view_of_move_then_other_eq hne ha hb hc hd
  · by_cases h₂ : u = m₂.unit
    · rw [h₂]
      exact (view_of_move_then_other_eq hne.symm hc hd ha hb).symm
    · rw [vb u h₂, va u h₁, vd u h₁, vc u h₂]

/-- Two steps of a schedule that begins with two moves of existing units make these moves. -/
theorem stepTwice_of_moves {s a b : State} {m₁ m₂ : Move} (h₁ : unitExists m₁.unit = true)
    (h₂ : unitExists m₂.unit = true) (ha : makeMove m₁ s = .next a) (hb : makeMove m₂ a = .next b)
    (rest : List Move) :
    stepTwice { s with schedule := m₁ :: m₂ :: rest } = .next { b with schedule := rest } := by
  have first : step { s with schedule := m₁ :: m₂ :: rest } = .next { a with schedule := m₂ :: rest } := by
    rw [Laws.step_of_schedule rfl, if_pos h₁]
    exact makeMove_withSchedule ha (m₂ :: rest)
  have second : step { a with schedule := m₂ :: rest } = .next { b with schedule := rest } := by
    rw [Laws.step_of_schedule rfl, if_pos h₂]
    exact makeMove_withSchedule hb rest
  simp only [stepTwice, first, second]

/-- Two steps stop if either of the two scheduled moves is about a unit the build does not have (log 4). -/
theorem stepTwice_of_absent (s : State) {m₁ m₂ : Move} (rest : List Move)
    (h : ¬ (unitExists m₁.unit = true ∧ unitExists m₂.unit = true)) :
    stepTwice { s with schedule := m₁ :: m₂ :: rest } = .fault .noSuchUnit := by
  by_cases h₁ : unitExists m₁.unit = true
  · have h₂ : ¬ unitExists m₂.unit = true := fun h₂ => h ⟨h₁, h₂⟩
    obtain ⟨a, ha, hsched, -⟩ := makeMove_completes m₁ { s with schedule := m₂ :: rest }
    have first : step { s with schedule := m₁ :: m₂ :: rest } = .next a := by
      rw [Laws.step_of_schedule rfl, if_pos h₁]
      exact ha
    have second : step a = .fault .noSuchUnit := by
      rw [Laws.step_of_schedule hsched, if_neg h₂]
    simp only [stepTwice, first, second]
  · have first : step { s with schedule := m₁ :: m₂ :: rest } = .fault .noSuchUnit := by
      rw [Laws.step_of_schedule rfl, if_neg h₁]
    simp only [stepTwice, first]

/-- Settles O52: each move changes its own unit's view by that view alone, and two steps of the schedule make the two
moves where the build has both units. -/
theorem movesOfDifferentUnitsCommute : Obligations.MovesOfDifferentUnitsCommute := by
  unfold Obligations.MovesOfDifferentUnitsCommute
  refine ⟨fun s m₁ m₂ hne => makeMove_comm s hne, fun s m₁ m₂ rest hne => ?_⟩
  split
  next hexist =>
    obtain ⟨h₁, h₂⟩ := hexist
    obtain ⟨a, b, c, d, ha, hb, hc, hd, -, hview⟩ := makeMove_comm s hne
    exact ⟨_, _, stepTwice_of_moves h₁ h₂ ha hb rest, stepTwice_of_moves h₂ h₁ hc hd rest, rfl, hview⟩
  next habsent =>
    exact ⟨stepTwice_of_absent s rest habsent, stepTwice_of_absent s rest fun h => habsent h.symm⟩

end Sys2Proof.Proofs.Memory
end

section
/-! PROOFS. Family 30_encoding.md: encoder and decoder undo each other (R60 to R66, R74), the layout of envelope and
messages (R66 to R72), the decoding of an arriving frame (R68 to R70, R74). -/

namespace Sys2Proof.Proofs.Encoding

open Machine

/-! ## Command records -/

theorem reservedAB_wellFormed_iff (op : BitVec 4) : (Instr.reservedAB op).WellFormed ↔ op = 0xA ∨ op = 0xB := by
  revert op
  decide

theorem reservedCF_wellFormed_iff (op : BitVec 4) : (Instr.reservedCF op).WellFormed ↔ 12 ≤ op.toNat := by
  revert op
  decide

/-- An op from 12 on is that of the last reserved row (30_encoding.md R65). -/
theorem decodeCommand_of_twelve_le {c : Command} (h : 12 ≤ c.op.toNat) : decodeCommand c = .reservedCF c.op := by
  unfold decodeCommand
  split
  case h_13 => rfl
  all_goals omega

/-- Only the rows with a free op bit have anything to check. -/
theorem decodeCommand_wellFormed (c : Command) : (decodeCommand c).WellFormed := by
  unfold decodeCommand
  split
  case h_11 h10 => exact (reservedAB_wellFormed_iff c.op).2 (.inl (BitVec.eq_of_toNat_eq h10))
  case h_12 h11 => exact (reservedAB_wellFormed_iff c.op).2 (.inr (BitVec.eq_of_toNat_eq h11))
  case h_13 =>
    simp only [imp_false] at *
    exact (reservedCF_wellFormed_iff c.op).2 (by omega)
  all_goals rfl

/-- The encoding of what a record decodes to is a record with the same op. -/
theorem encode_decodeCommand (c : Command) : ∃ c', encode (decodeCommand c) = .command c' ∧ c'.op = c.op := by
  unfold decodeCommand
  split
  case h_11 | h_12 | h_13 => exact ⟨_, rfl, rfl⟩
  all_goals
    next hop => exact ⟨_, rfl, (BitVec.eq_of_toNat_eq hop).symm⟩

/-- An op of 9 or more decodes to a reserved row, and all of these answer IllegalOp (30_encoding.md R65). -/
theorem exec_decodeCommand_of_nine_le {c : Command} (h : 9 ≤ c.op.toNat) (s : State) :
    exec (decodeCommand c) s = .next (s.respond (.error .illegalOp)) := by
  unfold decodeCommand
  split
  case h_10 | h_11 | h_12 | h_13 => rfl
  all_goals omega

/-- Every instruction is encoded as an item of its own opcode-table row. -/
theorem matchingRows_encode {i : Instr} (h : i.WellFormed) : matchingRows (encode i) = [i.mnemonic] := by
  have row : Laws.OpcodeRow.Statement i := by
    cases i with
    | cksum data => exact Laws.OpcodeRow.cksum data
    | frame f => exact Laws.OpcodeRow.frame f
    | deframe buf => exact Laws.OpcodeRow.deframe buf
    | tileEnc m => exact Laws.OpcodeRow.tileEnc m
    | tileDec header body => exact Laws.OpcodeRow.tileDec header body
    | actEnc m => exact Laws.OpcodeRow.actEnc m
    | actDec header body => exact Laws.OpcodeRow.actDec header body
    | resEnc m => exact Laws.OpcodeRow.resEnc m
    | resDec header body => exact Laws.OpcodeRow.resDec header body
    | reserved9 => exact Laws.OpcodeRow.reserved9
    | reservedAB op => exact Laws.OpcodeRow.reservedAB op
    | reservedCF op => exact Laws.OpcodeRow.reservedCF op
    | tileMessage H B rest => exact Laws.OpcodeRow.tileMessage H B rest
    | activationMessage H B rest => exact Laws.OpcodeRow.activationMessage H B rest
    | resultMessage H B rest => exact Laws.OpcodeRow.resultMessage H B rest
  exact row h

/-- Settles O4: what a record decodes to is well-formed and is encoded with the record's op, and the encoding of a
well-formed instruction matches its own row alone. -/
theorem everyOpSelectsExactlyOneRow : Obligations.EveryOpSelectsExactlyOneRow := by
  unfold Obligations.EveryOpSelectsExactlyOneRow
  intro c
  obtain ⟨c', hc', hop⟩ := encode_decodeCommand c
  have row := matchingRows_encode (decodeCommand_wellFormed c)
  rw [hc'] at row
  rw [← hop]
  exact row

/-- Settles O5: the decoder is evaluated on each of the twelve words. -/
theorem opcodeTableWordsDecode : Obligations.OpcodeTableWordsDecode := by
  unfold Obligations.OpcodeTableWordsDecode
  decide

/-- Settles O34: the record's op selects a reserved row, whose meaning is IllegalOp. -/
theorem reservedOpsAnswerIllegalOp : Obligations.ReservedOpsAnswerIllegalOp := by
  unfold Obligations.ReservedOpsAnswerIllegalOp
  exact ⟨rfl, rfl, fun _ s h => exec_decodeCommand_of_nine_le h s, fun _ => rfl, fun _ _ => rfl, fun _ _ => rfl⟩

/-! ## Encoder and decoder -/

/-- A command's record carries its op and its operands; a reserved row with free op bits holds an op of its row; a
frame's envelope is read back field by field. -/
theorem decodeItem_encode {i : Instr} (hi : i.WellFormed) : decodeItem (encode i) = .ok i := by
  cases i with
  | cksum data => rfl
  | frame f => rfl
  | deframe buf => rfl
  | tileEnc m => rfl
  | tileDec header body => rfl
  | actEnc m => rfl
  | actDec header body => rfl
  | resEnc m => rfl
  | resDec header body => rfl
  | reserved9 => rfl
  | reservedAB op =>
    obtain rfl | rfl := (reservedAB_wellFormed_iff op).1 hi
    · rfl
    · rfl
  | reservedCF op =>
    have hop : 12 ≤ op.toNat := (reservedCF_wellFormed_iff op).1 hi
    exact congrArg Except.ok (decodeCommand_of_twelve_le (c := { op := op }) hop)
  | tileMessage H B rest => exact Laws.decodeWire_envelope Config.MT_TILE H B rest
  | activationMessage H B rest => exact Laws.decodeWire_envelope Config.MT_ACT H B rest
  | resultMessage H B rest => exact Laws.decodeWire_envelope Config.MT_RES H B rest

/-- Settles O1: constructor by constructor, the decoder reads back what the encoder laid out. -/
theorem decodeOfEncodeIsTheInstruction : Obligations.DecodeOfEncodeIsTheInstruction := by
  unfold Obligations.DecodeOfEncodeIsTheInstruction
  exact fun _ => decodeItem_encode

/-- An instruction encoded as a frame is a wire row, which is well-formed whatever its operands. -/
theorem wellFormed_of_encode_wire : ∀ {i : Instr} {buf : Bytes}, encode i = .wire buf → i.WellFormed
  | .tileMessage _ _ _, _, _ => rfl
  | .activationMessage _ _ _, _, _ => rfl
  | .resultMessage _ _ _, _, _ => rfl

theorem decodeWire_of_short {buf : Bytes} (h : buf.length < 8) : decodeWire buf = .error .tooShort := by
  match buf with
  | v :: t :: h0 :: h1 :: b0 :: b1 :: b2 :: b3 :: rest =>
    exact absurd h (Nat.not_lt.2 (Nat.le_add_left 8 rest.length))
  | [] | [_] | [_, _] | [_, _, _] | [_, _, _, _] | [_, _, _, _, _] | [_, _, _, _, _, _] | [_, _, _, _, _, _, _] => rfl

theorem decodeWire_of_other_version {buf : Bytes} (hl : 8 ≤ buf.length) (hv : buf.getD 0 0 ≠ 1) :
    decodeWire buf = .error (.otherVersion (buf.getD 0 0)) := by
  match buf, hl with
  | v :: t :: h0 :: h1 :: b0 :: b1 :: b2 :: b3 :: rest, _ =>
    rw [Laws.decodeWire_cons, if_pos (show v ≠ Config.VERSION from hv)]
    rfl

/-- An envelope's message type is one of the three wire rows', or 3 to 255 (30_encoding.md R74). -/
theorem decodeWire_envelope_cases (mt : U8) (H : U16) (B : U32) (rest : Bytes) :
    (3 ≤ mt.toNat ∧ decodeWire (envelope mt H B ++ rest) = .error (.unassignedType mt)) ∨
    (mt.toNat < 3 ∧ ∃ i, decodeWire (envelope mt H B ++ rest) = .ok i ∧
      encode i = .wire (envelope mt H B ++ rest)) := by
  rw [Laws.decodeWire_envelope]
  by_cases h0 : mt = Config.MT_TILE
  · subst h0
    exact .inr ⟨by decide, _, rfl, rfl⟩
  · by_cases h1 : mt = Config.MT_ACT
    · subst h1
      exact .inr ⟨by decide, _, rfl, rfl⟩
    · by_cases h2 : mt = Config.MT_RES
      · subst h2
        exact .inr ⟨by decide, _, rfl, rfl⟩
      · rw [if_neg h0, if_neg h1, if_neg h2]
        have noCodec : decoderResponse mt = none := by simp [decoderResponse, h0, h1, h2]
        exact .inl ⟨Laws.decoderResponse_eq_none noCodec, rfl⟩

/-- How a buffer is classified: each of the four answers under its own condition (30_encoding.md R74, R75). -/
theorem decodeWire_cases (buf : Bytes) :
    (buf.length < 8 ∧ decodeWire buf = .error .tooShort) ∨
    (8 ≤ buf.length ∧ buf.getD 0 0 ≠ 1 ∧ decodeWire buf = .error (.otherVersion (buf.getD 0 0))) ∨
    (8 ≤ buf.length ∧ buf.getD 0 0 = 1 ∧ 3 ≤ (buf.getD 1 0).toNat ∧
      decodeWire buf = .error (.unassignedType (buf.getD 1 0))) ∨
    (8 ≤ buf.length ∧ buf.getD 0 0 = 1 ∧ (buf.getD 1 0).toNat < 3 ∧
      ∃ i, decodeWire buf = .ok i ∧ encode i = .wire buf) := by
  by_cases hl : buf.length < 8
  · exact .inl ⟨hl, decodeWire_of_short hl⟩
  · have hl : 8 ≤ buf.length := Nat.le_of_not_lt hl
    by_cases hv : buf.getD 0 0 = 1
    · obtain ⟨mt, H, B, hbuf⟩ := Laws.eq_envelope_append hl hv
      have hmt : buf.getD 1 0 = mt := by rw [hbuf]; rfl
      have byType := decodeWire_envelope_cases mt H B (buf.drop 8)
      rw [← hbuf, ← hmt] at byType
      obtain ⟨hge, herr⟩ | ⟨hlt, i, hok, henc⟩ := byType
      · exact .inr (.inr (.inl ⟨hl, hv, hge, herr⟩))
      · exact .inr (.inr (.inr ⟨hl, hv, hlt, i, hok, henc⟩))
    · exact .inr (.inl ⟨hl, hv, decodeWire_of_other_version hl hv⟩)

/-- The buffers classified as an instruction are exactly its encoding. -/
theorem decodeWire_eq_ok_iff {buf : Bytes} {i : Instr} : decodeWire buf = .ok i ↔ encode i = .wire buf := by
  constructor
  · intro hdec
    obtain ⟨-, h⟩ | ⟨-, -, h⟩ | ⟨-, -, -, h⟩ | ⟨-, -, -, j, h, henc⟩ := decodeWire_cases buf <;>
      rw [hdec] at h <;> cases h
    exact henc
  · intro henc
    have hdec := decodeItem_encode (wellFormed_of_encode_wire henc)
    rw [henc] at hdec
    exact hdec

/-- Settles O3: the classifying answer comes with the encoding it is read from. -/
theorem classifiedBufferReencodesExactly : Obligations.ClassifiedBufferReencodesExactly := by
  unfold Obligations.ClassifiedBufferReencodesExactly
  exact fun _ _ => decodeWire_eq_ok_iff.1

/-- Settles O2: a record decodes to a well-formed instruction, a buffer to a wire row. -/
theorem decodedItemsAreWellFormed : Obligations.DecodedItemsAreWellFormed := by
  unfold Obligations.DecodedItemsAreWellFormed
  intro item i h
  cases item with
  | command c =>
    cases h
    exact decodeCommand_wellFormed c
  | wire buf => exact wellFormed_of_encode_wire (decodeWire_eq_ok_iff.1 h)

/-! ## Classification of a buffer -/

/-- A buffer is the envelope of given fields and given bytes after it exactly when its bytes say so (30_encoding.md
R66). -/
theorem envelope_append_eq_iff {mt : U8} {H : U16} {B : U32} {rest buf : Bytes} :
    envelope mt H B ++ rest = buf ↔ 8 ≤ buf.length ∧ buf.getD 0 0 = 1 ∧ buf.getD 1 0 = mt ∧
      H.toNat = declaredHeader buf ∧ B.toNat = declaredBody buf ∧ rest = buf.drop 8 := by
  constructor
  · rintro rfl
    exact ⟨by simp, rfl, rfl, (Laws.declaredHeader_envelope mt H B rest).symm,
      (Laws.declaredBody_envelope mt H B rest).symm, by simp⟩
  · rintro ⟨hl, hv, hmt, hH, hB, hrest⟩
    obtain ⟨mt', H', B', hbuf⟩ := Laws.eq_envelope_append hl hv
    have hmt' : mt = mt' := by rw [← hmt, hbuf]; rfl
    have hH' : H = H' := by rw [← BitVec.toNat_inj, hH, hbuf, Laws.declaredHeader_envelope]
    have hB' : B = B' := by rw [← BitVec.toNat_inj, hB, hbuf, Laws.declaredBody_envelope]
    rw [hmt', hH', hB', hrest, ← hbuf]

/-- A buffer is classified as the wire row that is encoded with message type `mt` exactly when its bytes say so. -/
theorem decodeWire_eq_ok_iff_bytes {buf rest : Bytes} {i : Instr} {mt : U8} {H : U16} {B : U32}
    (hi : encode i = .wire (envelope mt H B ++ rest)) :
    decodeWire buf = .ok i ↔ 8 ≤ buf.length ∧ buf.getD 0 0 = 1 ∧ buf.getD 1 0 = mt ∧
      H.toNat = declaredHeader buf ∧ B.toNat = declaredBody buf ∧ rest = buf.drop 8 := by
  rw [decodeWire_eq_ok_iff, hi, Item.wire.injEq, envelope_append_eq_iff]

theorem decodeWire_eq_tooShort_iff {buf : Bytes} : decodeWire buf = .error .tooShort ↔ buf.length < 8 := by
  obtain ⟨hl, h⟩ | ⟨hl, -, h⟩ | ⟨hl, -, -, h⟩ | ⟨hl, -, -, i, h, -⟩ := decodeWire_cases buf <;> simp [h, hl]

theorem decodeWire_eq_otherVersion_iff {buf : Bytes} {v : Byte} :
    decodeWire buf = .error (.otherVersion v) ↔ 8 ≤ buf.length ∧ buf.getD 0 0 = v ∧ v ≠ 1 := by
  constructor
  · intro hdec
    obtain ⟨-, h⟩ | ⟨hl, hv, h⟩ | ⟨-, -, -, h⟩ | ⟨-, -, -, i, h, -⟩ := decodeWire_cases buf <;>
      rw [hdec] at h <;> cases h
    exact ⟨hl, rfl, hv⟩
  · rintro ⟨hl, rfl, hv⟩
    exact decodeWire_of_other_version hl hv

theorem decodeWire_eq_unassignedType_iff {buf : Bytes} {t : U8} :
    decodeWire buf = .error (.unassignedType t) ↔
      8 ≤ buf.length ∧ buf.getD 0 0 = 1 ∧ buf.getD 1 0 = t ∧ 3 ≤ t.toNat := by
  constructor
  · intro hdec
    obtain ⟨-, h⟩ | ⟨-, -, h⟩ | ⟨hl, hv, ht, h⟩ | ⟨-, -, -, i, h, -⟩ := decodeWire_cases buf <;>
      rw [hdec] at h <;> cases h
    exact ⟨hl, hv, rfl, ht⟩
  · rintro ⟨hl, hv, rfl, ht⟩
    obtain ⟨hl', -⟩ | ⟨-, hv', -⟩ | ⟨-, -, -, h⟩ | ⟨-, -, ht', -⟩ := decodeWire_cases buf
    · omega
    · exact absurd hv hv'
    · exact h
    · omega

/-- Settles O6: the four answers of the classification exclude each other, and a buffer of a wire row is the envelope of
the fields its bytes hold. -/
theorem buffersClassifyByTheirFirstTwoBytes : Obligations.BuffersClassifyByTheirFirstTwoBytes := by
  unfold Obligations.BuffersClassifyByTheirFirstTwoBytes
  exact fun buf => ⟨decodeWire_eq_tooShort_iff, fun _ => decodeWire_eq_otherVersion_iff,
    fun _ => decodeWire_eq_unassignedType_iff, fun _ _ _ => decodeWire_eq_ok_iff_bytes rfl,
    fun _ _ _ => decodeWire_eq_ok_iff_bytes rfl, fun _ _ _ => decodeWire_eq_ok_iff_bytes rfl⟩

/-! ## The envelope word -/

/-- `from_be` of a concatenation (00_scope.md R13): the first part counts 256 to the length of the second. -/
theorem fromBeNat_append (a b : Bytes) : fromBeNat (a ++ b) = fromBeNat a * 256 ^ b.length + fromBeNat b := by
  induction b using List.reverseRecOn with
  | nil => simp [fromBeNat]
  | append_singleton b x ih =>
    have snoc : ∀ c : Bytes, fromBeNat (c ++ [x]) = fromBeNat c * 256 + x.toNat := fun c => by simp [fromBeNat]
    rw [← List.append_assoc, snoc, snoc, ih, List.length_append, List.length_singleton]
    ring

/-- The number the envelope word E is (30_encoding.md R66). -/
theorem fromBe_envelope_toNat (mt : U8) (H : U16) (B : U32) : (fromBe 64 (envelope mt H B)).toNat =
    ((1 * 2 ^ 8 + mt.toNat) * 2 ^ 16 + H.toNat) * 2 ^ 32 + B.toNat := by
  have hmt := mt.isLt
  have hH := H.isLt
  have hB := B.isLt
  have hdr : fromBeNat [Config.VERSION, mt] = 1 * 256 + mt.toNat := rfl
  have number : fromBeNat (envelope mt H B) = ((1 * 2 ^ 8 + mt.toNat) * 2 ^ 16 + H.toNat) * 2 ^ 32 + B.toNat := by
    rw [envelope, fromBeNat_append, fromBeNat_append, hdr, Laws.fromBeNat_be_sixteen, Laws.fromBeNat_be_thirtytwo,
      Laws.be_length, Laws.be_length]
    norm_num
  rw [fromBe, BitVec.toNat_ofNat, number]
  omega

/-- Settles O8: the envelope word is a number with the four fields as digits, and each bit range is read off it. -/
theorem envelopeWordCarriesItsFields : Obligations.EnvelopeWordCarriesItsFields := by
  unfold Obligations.EnvelopeWordCarriesItsFields
  intro mt H B
  have hmt := mt.isLt
  have hH := H.isLt
  have hB := B.isLt
  refine ⟨Laws.envelope_length mt H B, ?version, ?mtype, ?headerLength, ?bodyLength⟩ <;>
    apply BitVec.eq_of_toNat_eq <;>
    rw [BitVec.extractLsb'_toNat, fromBe_envelope_toNat, Nat.shiftRight_eq_div_pow]
  case version => rw [BitVec.toNat_ofNat]; omega
  all_goals omega

/-! ## The layout of an encoded message -/

/-- The parts of a frame whose header is n scalar bytes and k tag bytes, by their offsets (30_encoding.md R67 to R72). -/
theorem frameBytes_layout (mt : U8) {scalars t : Bytes} {n k : Nat} (hn : scalars.length = n) (hk : t.length = k)
    (payload : Bytes) :
    (frameBytes ⟨mt, scalars ++ t, payload⟩).take 4 = [1, mt] ++ be 16 (BitVec.ofNat 16 (n + k)) ∧
    (frameBytes ⟨mt, scalars ++ t, payload⟩).length = 8 + n + k + payload.length ∧
    slice (frameBytes ⟨mt, scalars ++ t, payload⟩) 8 (8 + n) = scalars ∧
    slice (frameBytes ⟨mt, scalars ++ t, payload⟩) (8 + n) (8 + n + k) = t ∧
    (frameBytes ⟨mt, scalars ++ t, payload⟩).drop (8 + n + k) = payload := by
  subst hn hk
  refine ⟨?type, ?length, ?scalars, ?tag, ?payload⟩
  case type => simp [frameBytes, envelope, Laws.be_sixteen, Config.VERSION]
  case length => simp [Nat.add_assoc]
  case scalars => simp [frameBytes, slice]
  case tag => simp [frameBytes, slice, List.drop_append, List.drop_eq_nil_of_le]
  case payload => exact List.drop_left' (by simp [Nat.add_assoc])

/-- The tag of an Activation header is the whole checksum (30_encoding.md R69). -/
theorem tag_sixteen (b : Bytes) : tag 16 b = (ck16 b).toList :=
  List.take_of_length_le (by simp)

/-- Settles O25: ENCODE answers the frame of scalars, tag and payload, whose parts lie where their lengths put them. -/
theorem encodedMessageLayout : Obligations.EncodedMessageLayout := by
  unfold Obligations.EncodedMessageLayout
  intro m s (hfits : m.payload.length ≤ Config.BLEN_MAX)
  refine ⟨_, by rw [Laws.exec_encodeInstr, if_pos hfits], ?_⟩
  cases m with
  | tile t =>
    have htag : (tag 8 t.payload).length = 8 := Laws.tag_length t.payload (by decide)
    exact frameBytes_layout Config.MT_TILE (Laws.tileScalars_length t) htag t.payload
  | activation a =>
    have htag : (tag 16 a.payload).length = 16 := Laws.tag_length a.payload (by decide)
    obtain ⟨hfirst, hlength, hscalars, hchecksum, hpayload⟩ :=
      frameBytes_layout Config.MT_ACT (Laws.actScalars_length a) htag a.payload
    exact ⟨hfirst, hlength, hscalars, hchecksum.trans (tag_sixteen a.payload), hpayload⟩
  | result r =>
    have htag : (tag 4 r.payload).length = 4 := Laws.tag_length r.payload (by decide)
    exact frameBytes_layout Config.MT_RES (Laws.resScalars_length r) htag r.payload

/-! ## A frame of a message type arrives -/

/-- DECODE of an envelope with fewer bytes after it than it declares (41_frame.md R105). -/
theorem decodeFlow_of_incomplete (mt : U8) {H : U16} {B : U32} {rest : Bytes} (h : rest.length < H.toNat + B.toNat)
    (s : State) : decodeFlow (envelope mt H B ++ rest) s =
      .next ((s.respond (.error .incompleteFrame)).conclude (.response (.error .incompleteFrame))) :=
  Laws.decodeFlow_of_error (by rw [Laws.deframeResponse_envelope, if_pos h]) s

/-- DECODE of an envelope with at least the bytes it declares: the parts, then what the type's decoder says of them. -/
theorem decodeFlow_of_complete {mt : U8} {H : U16} {B : U32} {rest : Bytes} {d : Bytes → Bytes → Option Response}
    {r : Response} (h : H.toNat + B.toNat ≤ rest.length) (hd : decoderResponse mt = some d)
    (hr : d (rest.take H.toNat) (slice rest H.toNat (H.toNat + B.toNat)) = some r) (s : State) :
    decodeFlow (envelope mt H B ++ rest) s =
      .next (((s.respond (.ok (.frame ⟨mt, rest.take H.toNat, slice rest H.toNat (H.toNat + B.toNat)⟩))).respond
        r).conclude (.response r)) := by
  have hparts : slice rest H.toNat (H.toNat + B.toNat) = (rest.drop H.toNat).take B.toNat := by simp [slice]
  rw [hparts] at hr ⊢
  exact Laws.decodeFlow_of_decoder (f := ⟨mt, rest.take H.toNat, (rest.drop H.toNat).take B.toNat⟩)
    (by rw [Laws.deframeResponse_envelope, if_neg (Nat.not_lt.2 h)]) hd hr s

/-- DECODE of an envelope and a message's scalars, any tag of its kind's length, its payload and any bytes after that is
the message (45_flows_and_properties.md R151, R153). -/
theorem decodeFlow_of_message (m : Message) {H : U16} {B : U32} {anyTag : Bytes} (ht : anyTag.length = m.tagLength)
    (hH : (m.scalars ++ anyTag).length = H.toNat) (hB : m.payload.length = B.toNat) (trailing : Bytes) (s : State) :
    decodeFlow (envelope m.mtype H B ++ (m.scalars ++ anyTag ++ m.payload ++ trailing)) s =
      .next (((s.respond (.ok (.frame ⟨m.mtype, m.scalars ++ anyTag, m.payload⟩))).respond
        (.ok (.message m))).conclude (.response (.ok (.message m)))) := by
  obtain ⟨d, hd, hr⟩ := Laws.decoderResponse_scalars m ht
  have hheader : (m.scalars ++ anyTag ++ m.payload ++ trailing).take H.toNat = m.scalars ++ anyTag := by
    rw [List.append_assoc _ m.payload, List.take_left' hH]
  have hbody : slice (m.scalars ++ anyTag ++ m.payload ++ trailing) H.toNat (H.toNat + B.toNat) = m.payload := by
    rw [slice, List.append_assoc _ m.payload, List.drop_left' hH, Nat.add_sub_cancel_left, List.take_left' hB]
  have hcomplete : H.toNat + B.toNat ≤ (m.scalars ++ anyTag ++ m.payload ++ trailing).length := by
    rw [List.length_append, List.length_append, hH, hB]
    exact Nat.le_add_right _ _
  have flow := decodeFlow_of_complete (r := .ok (.message m)) hcomplete hd (by rw [hheader, hbody]; exact hr) s
  rw [hheader, hbody] at flow
  exact flow

/-- Settles O35: too few bytes stop DEFRAME; otherwise TILE.DEC has the parts, and refuses or reads the header. -/
theorem tileFrameIsDecoded : Obligations.TileFrameIsDecoded := by
  unfold Obligations.TileFrameIsDecoded
  intro H B rest s
  refine ⟨fun hshort => decodeFlow_of_incomplete Config.MT_TILE hshort s, fun hlong hH => ?refused, ?message⟩
  case refused =>
    have hlen : (rest.take H.toNat).length ≠ 34 := by simp; omega
    exact decodeFlow_of_complete (mt := Config.MT_TILE) hlong rfl (by rw [Laws.tileDecResponse_eq, if_neg hlen]) s
  case message =>
    rintro m anyTag trailing ht hB hH rfl
    exact decodeFlow_of_message (.tile m) ht (by simp [Message.scalars, ht, hH]) hB trailing s

/-- Settles O36: as for Tile, with ACT.DEC and its 48 header bytes. -/
theorem activationFrameIsDecoded : Obligations.ActivationFrameIsDecoded := by
  unfold Obligations.ActivationFrameIsDecoded
  intro H B rest s
  refine ⟨fun hshort => decodeFlow_of_incomplete Config.MT_ACT hshort s, fun hlong hH => ?refused, ?message⟩
  case refused =>
    have hlen : (rest.take H.toNat).length ≠ 48 := by simp; omega
    exact decodeFlow_of_complete (mt := Config.MT_ACT) hlong rfl (by rw [Laws.actDecResponse_eq, if_neg hlen]) s
  case message =>
    rintro m anyTag trailing ht hB hH rfl
    exact decodeFlow_of_message (.activation m) ht (by simp [Message.scalars, ht, hH]) hB trailing s

/-- Settles O37: as for Tile, with RES.DEC and its 33 header bytes. -/
theorem resultFrameIsDecoded : Obligations.ResultFrameIsDecoded := by
  unfold Obligations.ResultFrameIsDecoded
  intro H B rest s
  refine ⟨fun hshort => decodeFlow_of_incomplete Config.MT_RES hshort s, fun hlong hH => ?refused, ?message⟩
  case refused =>
    have hlen : (rest.take H.toNat).length ≠ 33 := by simp; omega
    exact decodeFlow_of_complete (mt := Config.MT_RES) hlong rfl (by rw [Laws.resDecResponse_eq, if_neg hlen]) s
  case message =>
    rintro m anyTag trailing ht hB hH rfl
    exact decodeFlow_of_message (.result m) ht (by simp [Message.scalars, ht, hH]) hB trailing s

end Sys2Proof.Proofs.Encoding
end

section
/-! PROOFS. Family 40_checksum.md: CKSUM (R90, R91). -/

namespace Sys2Proof.Proofs.Checksum

open Machine

theorem decodeCommand_of_op_zero {c : Command} (h : c.op = 0x0) : decodeCommand c = .cksum c.data := by
  unfold decodeCommand
  rw [h]
  rfl

/-- CKSUM returns the checksum of its data and has no error branch (40_checksum.md R91). -/
theorem exec_cksum (data : Bytes) (s : State) :
    exec (.cksum data) s = .next (s.respond (.ok (.digest (ck16 data)))) :=
  Laws.answer_returnWith (.digest (ck16 data)) s

/-- Settles O9: the digest is `ck16` of the data, which is the first 16 bytes of HASH. -/
theorem cksumAnswersFirstSixteenHashBytes : Obligations.CksumAnswersFirstSixteenHashBytes := by
  unfold Obligations.CksumAnswersFirstSixteenHashBytes
  exact ⟨fun _ hop => decodeCommand_of_op_zero hop,
    fun data s => ⟨ck16 data, Laws.ck16_toList data, exec_cksum data s⟩⟩

end Sys2Proof.Proofs.Checksum
end

section
/-! PROOFS. Family 41_frame.md: FRAME and DEFRAME, byte for byte and undoing each other (R101 to R111), and the
invariant of the record every step keeps (R102). -/

namespace Sys2Proof.Proofs.FrameCodec

open Machine

/-! ## Frames and the buffers that begin with one -/

/-- The guard of FRAME (41_frame.md R102): one of the two lengths is over its field's largest value. -/
theorem not_fits_iff {f : Frame} : ¬ f.Fits ↔ f.header.length > 65535 ∨ f.body.length > 4294967295 := by
  simp only [Frame.Fits, Config.HLEN_MAX, Config.BLEN_MAX]
  omega

/-- The envelope of a frame that fits declares the frame's own lengths. -/
theorem declaredLengths_frameBytes {f : Frame} (hf : f.Fits) (extra : Bytes) :
    declaredHeader (frameBytes f ++ extra) = f.header.length ∧
      declaredBody (frameBytes f ++ extra) = f.body.length := by
  obtain ⟨hheader, hbody⟩ := hf
  simp only [Config.HLEN_MAX, Config.BLEN_MAX] at hheader hbody
  rw [frameBytes, List.append_assoc, List.append_assoc, Laws.declaredHeader_envelope, Laws.declaredBody_envelope,
    BitVec.toNat_ofNat, BitVec.toNat_ofNat]
  omega

/-- An envelope and at least the bytes it declares are the bytes of a frame that fits and what comes after it. -/
theorem envelope_append_eq_frameBytes (mt : U8) {H : U16} {B : U32} {rest : Bytes}
    (h : H.toNat + B.toNat ≤ rest.length) :
    ∃ f extra, f.Fits ∧ envelope mt H B ++ rest = frameBytes f ++ extra := by
  have hH := H.isLt
  have hB := B.isLt
  have headerLength : (rest.take H.toNat).length = H.toNat := by rw [List.length_take]; omega
  have bodyLength : ((rest.drop H.toNat).take B.toNat).length = B.toNat := by
    rw [List.length_take, List.length_drop]; omega
  refine ⟨⟨mt, rest.take H.toNat, (rest.drop H.toNat).take B.toNat⟩, (rest.drop H.toNat).drop B.toNat, ?fits, ?bytes⟩
  case fits =>
    simp only [Frame.Fits, headerLength, bodyLength, Config.HLEN_MAX, Config.BLEN_MAX]
    omega
  case bytes =>
    simp only [frameBytes, headerLength, bodyLength, BitVec.ofNat_toNat, BitVec.setWidth_eq, List.append_assoc,
      List.take_append_drop]

/-- A buffer of version 1 that holds all it declares begins with the bytes of a frame that fits (41_frame.md R105). -/
theorem eq_frameBytes_append {buf : Bytes} (hl : 8 ≤ buf.length) (hv : buf.getD 0 0 = 1)
    (hc : 8 + declaredHeader buf + declaredBody buf ≤ buf.length) :
    ∃ f extra, f.Fits ∧ buf = frameBytes f ++ extra := by
  obtain ⟨mt, H, B, hbuf⟩ := Laws.eq_envelope_append hl hv
  rw [hbuf, Laws.declaredHeader_envelope, Laws.declaredBody_envelope, List.length_append,
    Laws.envelope_length] at hc
  rw [hbuf]
  exact envelope_append_eq_frameBytes mt (by omega)

theorem deframeResponse_of_short {buf : Bytes} (h : buf.length < 8) :
    deframeResponse buf = some (.error .shortFrame) := by
  rw [Laws.deframeResponse_eq, if_pos h]

theorem deframeResponse_of_other_version {buf : Bytes} (hl : 8 ≤ buf.length) (hv : buf.getD 0 0 ≠ 1) :
    deframeResponse buf = some (.error .versionMismatch) := by
  rw [Laws.deframeResponse_eq, if_neg (Nat.not_lt.2 hl), if_pos hv]

theorem deframeResponse_of_incomplete {buf : Bytes} (hl : 8 ≤ buf.length) (hv : buf.getD 0 0 = 1)
    (hc : buf.length < 8 + declaredHeader buf + declaredBody buf) :
    deframeResponse buf = some (.error .incompleteFrame) := by
  rw [Laws.deframeResponse_eq, if_neg (Nat.not_lt.2 hl), if_neg (not_not.2 hv), if_pos hc]

/-- What DEFRAME answers, and of which buffers: its three errors, or the frame the buffer begins with (41_frame.md
R105). -/
theorem deframeResponse_answers (buf : Bytes) :
    (buf.length < 8 ∧ deframeResponse buf = some (.error .shortFrame)) ∨
    (8 ≤ buf.length ∧ buf.getD 0 0 ≠ 1 ∧ deframeResponse buf = some (.error .versionMismatch)) ∨
    (8 ≤ buf.length ∧ buf.getD 0 0 = 1 ∧ deframeResponse buf = some (.error .incompleteFrame)) ∨
    ∃ f extra, f.Fits ∧ buf = frameBytes f ++ extra ∧ deframeResponse buf = some (.ok (.frame f)) := by
  by_cases hl : buf.length < 8
  · exact .inl ⟨hl, deframeResponse_of_short hl⟩
  · have hl : 8 ≤ buf.length := Nat.le_of_not_lt hl
    by_cases hv : buf.getD 0 0 = 1
    · by_cases hc : buf.length < 8 + declaredHeader buf + declaredBody buf
      · exact .inr (.inr (.inl ⟨hl, hv, deframeResponse_of_incomplete hl hv hc⟩))
      · obtain ⟨f, extra, hfits, rfl⟩ := eq_frameBytes_append hl hv (Nat.le_of_not_lt hc)
        exact .inr (.inr (.inr ⟨f, extra, hfits, rfl, Laws.deframeResponse_frameBytes hfits extra⟩))
    · exact .inr (.inl ⟨hl, hv, deframeResponse_of_other_version hl hv⟩)

/-- DEFRAME delivers exactly the frame whose lengths fit and whose bytes the buffer begins with (41_frame.md R107,
R111). -/
theorem deframeResponse_eq_frame_iff {buf : Bytes} {f : Frame} :
    deframeResponse buf = some (.ok (.frame f)) ↔ f.Fits ∧ ∃ extra, buf = frameBytes f ++ extra := by
  constructor
  · intro h
    obtain ⟨-, h'⟩ | ⟨-, -, h'⟩ | ⟨-, -, h'⟩ | ⟨g, extra, hfits, hbuf, h'⟩ := deframeResponse_answers buf <;>
      rw [h] at h' <;> cases h'
    exact ⟨hfits, extra, hbuf⟩
  · rintro ⟨hfits, extra, rfl⟩
    exact Laws.deframeResponse_frameBytes hfits extra

/-- The bytes DEFRAME consumes are those of the frame it delivers (30_encoding.md R77). -/
theorem take_consumedBytes (f : Frame) (extra : Bytes) :
    (frameBytes f ++ extra).take (consumedBytes f) = frameBytes f :=
  List.take_left' (Laws.frameBytes_length f)

/-! ## FRAME and DEFRAME as commands -/

theorem exec_frame_of_fits {f : Frame} (h : f.Fits) (s : State) :
    exec (.frame f) s = .next (s.respond (.ok (.out (frameBytes f)))) := by
  show answer (frameResponse f) s = _
  rw [Laws.frameResponse_of_fits h, Laws.answer_some]

theorem exec_frame_of_not_fits {f : Frame} (h : ¬ f.Fits) (s : State) :
    exec (.frame f) s = .next (s.respond (.error .lengthOverflow)) := by
  show answer (frameResponse f) s = _
  rw [Laws.frameResponse_of_not_fits h, Laws.answer_some]

/-- DEFRAME as a command gives a response exactly when it is what DEFRAME answers for the buffer. -/
theorem exec_deframe_iff {buf : Bytes} {s : State} {r : Response} :
    exec (.deframe buf) s = .next (s.respond r) ↔ deframeResponse buf = some r := by
  show answer (deframeResponse buf) s = _ ↔ _
  constructor
  · intro h
    obtain ⟨x, hx, ht⟩ := Laws.answer_eq_next h
    rw [hx, Laws.respond_inj ht]
  · intro h
    rw [h, Laws.answer_some]

/-- DEFRAME of a frame's bytes and any bytes after them delivers the frame (41_frame.md R107). -/
theorem exec_deframe_frameBytes_append {f : Frame} (hf : f.Fits) (extra : Bytes) (s : State) :
    exec (.deframe (frameBytes f ++ extra)) s = .next (s.respond (.ok (.frame f))) :=
  exec_deframe_iff.2 (Laws.deframeResponse_frameBytes hf extra)

theorem exec_deframe_frameBytes {f : Frame} (hf : f.Fits) (s : State) :
    exec (.deframe (frameBytes f)) s = .next (s.respond (.ok (.frame f))) := by
  simpa using exec_deframe_frameBytes_append hf [] s

theorem decodeCommand_of_op_one {c : Command} (h : c.op = 0x1) :
    decodeCommand c = .frame ⟨c.mtype, c.header, c.body⟩ := by
  unfold decodeCommand
  rw [h]
  rfl

theorem decodeCommand_of_op_two {c : Command} (h : c.op = 0x2) : decodeCommand c = .deframe c.buf := by
  unfold decodeCommand
  rw [h]
  rfl

/-! ## The invariant of the record -/

/-- What DECODE may end with a unit may answer. -/
theorem legal_of_outcome_legal {r : Response} (h : (DecodeOutcome.response r).Legal) : r.Legal := by
  cases r with
  | ok r =>
    cases r with
    | digest d => trivial
    | out b => exact h.elim
    | frame f => exact h.elim
    | message m => trivial
  | error e =>
    cases e with
    | badHeaderSize n => exact h
    | shortFrame | versionMismatch | incompleteFrame | lengthOverflow | illegalOp => trivial

/-- FRAME emits the bytes of a frame that fits, or nothing (41_frame.md R102). -/
theorem frameResponse_legal (f : Frame) : ∃ r, frameResponse f = some r ∧ r.Legal := by
  by_cases h : f.Fits
  · exact ⟨_, Laws.frameResponse_of_fits h, f, h, rfl⟩
  · exact ⟨_, Laws.frameResponse_of_not_fits h, trivial⟩

/-- The message encoders emit what FRAME emits, or nothing. -/
theorem encodeMessage_legal (mt : U8) (scalars : Bytes) (k : Nat) (payload : Bytes) :
    ∃ r, encodeMessage mt scalars k payload = some r ∧ r.Legal := by
  unfold encodeMessage
  split
  · exact ⟨_, rfl, trivial⟩
  · exact frameResponse_legal _

/-- DEFRAME answers an error DECODE may end with, or the parts of a frame that fits. -/
theorem deframeResponse_legal_cases (buf : Bytes) :
    (∃ e, deframeResponse buf = some (.error e) ∧ (DecodeOutcome.response (.error e)).Legal) ∨
      ∃ f, deframeResponse buf = some (.ok (.frame f)) ∧ f.Fits := by
  obtain ⟨-, h⟩ | ⟨-, -, h⟩ | ⟨-, -, h⟩ | ⟨f, -, hfits, -, h⟩ := deframeResponse_answers buf
  · exact .inl ⟨_, h, trivial⟩
  · exact .inl ⟨_, h, trivial⟩
  · exact .inl ⟨_, h, trivial⟩
  · exact .inr ⟨f, h, hfits⟩

theorem deframeResponse_legal (buf : Bytes) : ∃ r, deframeResponse buf = some r ∧ r.Legal := by
  obtain ⟨e, h, hlegal⟩ | ⟨f, h, hfits⟩ := deframeResponse_legal_cases buf
  · exact ⟨_, h, legal_of_outcome_legal hlegal⟩
  · exact ⟨_, h, hfits⟩

/-- The message decoders answer what DECODE may end with (60_exceptions.md R172). -/
theorem decoderResponse_outcome_legal {mt : U8} {d : Bytes → Bytes → Option Response}
    (hd : decoderResponse mt = some d) (header body : Bytes) :
    ∃ r, d header body = some r ∧ (DecodeOutcome.response r).Legal := by
  obtain ⟨m, hm⟩ | ⟨n, hn, haccepted⟩ := Laws.decoderResponse_answers hd header body
  · exact ⟨_, hm, trivial⟩
  · exact ⟨_, hn, haccepted⟩

theorem decoderResponse_legal {mt : U8} {d : Bytes → Bytes → Option Response} (hd : decoderResponse mt = some d)
    (header body : Bytes) : ∃ r, d header body = some r ∧ r.Legal := by
  obtain ⟨r, hr, hlegal⟩ := decoderResponse_outcome_legal hd header body
  exact ⟨r, hr, legal_of_outcome_legal hlegal⟩

section
variable {s t : State} (hs : s.Inv)
include hs

theorem inv_dropCurrent (u : Nat) : (s.dropCurrent u).Inv := by
  obtain ⟨hresponses, houtcomes, hheld⟩ := hs
  exact ⟨hresponses, houtcomes, fun p hp => hheld p (Laws.dropFirstHeld_subset hp)⟩

theorem inv_present {u : Nat} (hu : unitExists u = true) (item : Item) : (s.present u item).Inv := by
  obtain h | ⟨-, h⟩ := Laws.present_cases s u item
  · obtain ⟨hresponses, houtcomes, hheld⟩ := hs
    rw [h]
    refine ⟨hresponses, houtcomes, fun p hp => ?_⟩
    obtain hp | hp := List.mem_append.1 hp
    · exact hheld p hp
    · cases List.mem_singleton.1 hp
      exact hu
  · rw [h]
    exact hs

/-! What the active unit does, when it exists. -/

variable (hactive : unitExists s.active = true)
include hactive

theorem inv_respond {r : Response} (hr : r.Legal) : (s.respond r).Inv := by
  obtain ⟨hresponses, houtcomes, hheld⟩ := hs
  refine ⟨fun p hp => ?_, houtcomes, hheld⟩
  obtain hp | hp := List.mem_append.1 hp
  · exact hresponses p hp
  · cases List.mem_singleton.1 hp
    exact ⟨hr, hactive⟩

theorem inv_conclude {o : DecodeOutcome} (ho : o.Legal) : (s.conclude o).Inv := by
  obtain ⟨hresponses, houtcomes, hheld⟩ := hs
  refine ⟨hresponses, fun p hp => ?_, hheld⟩
  obtain hp | hp := List.mem_append.1 hp
  · exact houtcomes p hp
  · cases List.mem_singleton.1 hp
    exact ⟨ho, hactive⟩

/-- A command whose response is legal keeps the invariant. -/
theorem inv_of_answer {x : Option Response} (hx : ∃ r, x = some r ∧ r.Legal) (h : answer x s = .next t) : t.Inv := by
  obtain ⟨r, rfl, hr⟩ := hx
  cases h
  exact inv_respond hs hactive hr

/-- DECODE keeps the invariant: each response it records is legal, and the one it ends with is a legal outcome
(45_flows_and_properties.md R151, R152). -/
theorem inv_of_decodeFlow {buf : Bytes} (h : decodeFlow buf s = .next t) : t.Inv := by
  obtain ⟨e, he, hlegal⟩ | ⟨f, hf, hfits⟩ := deframeResponse_legal_cases buf
  · rw [Laws.decodeFlow_of_error he] at h
    cases h
    exact inv_conclude (inv_respond hs hactive (legal_of_outcome_legal hlegal)) hactive hlegal
  · have hdeframed : (s.respond (.ok (.frame f))).Inv := inv_respond hs hactive hfits
    cases hd : decoderResponse f.mtype with
    | none =>
      rw [Laws.decodeFlow_of_unassigned hf hd] at h
      cases h
      exact inv_conclude hdeframed hactive (Laws.decoderResponse_eq_none hd)
    | some d =>
      obtain ⟨r, hr, hlegal⟩ := decoderResponse_outcome_legal hd f.header f.body
      rw [Laws.decodeFlow_of_decoder hf hd hr] at h
      cases h
      exact inv_conclude (inv_respond hdeframed hactive (legal_of_outcome_legal hlegal)) hactive hlegal

/-- Every instruction keeps the invariant: a command gives one legal response, a frame goes through DECODE. -/
theorem inv_of_exec {i : Instr} (h : exec i s = .next t) : t.Inv := by
  cases i with
  | cksum data => exact inv_of_answer hs hactive ⟨.ok (.digest (ck16 data)), rfl, trivial⟩ h
  | frame f => exact inv_of_answer hs hactive (frameResponse_legal f) h
  | deframe buf => exact inv_of_answer hs hactive (deframeResponse_legal buf) h
  | tileEnc m => exact inv_of_answer hs hactive (encodeMessage_legal _ _ _ _) h
  | tileDec header body => exact inv_of_answer hs hactive (decoderResponse_legal (mt := Config.MT_TILE) rfl _ _) h
  | actEnc m => exact inv_of_answer hs hactive (encodeMessage_legal _ _ _ _) h
  | actDec header body => exact inv_of_answer hs hactive (decoderResponse_legal (mt := Config.MT_ACT) rfl _ _) h
  | resEnc m => exact inv_of_answer hs hactive (encodeMessage_legal _ _ _ _) h
  | resDec header body => exact inv_of_answer hs hactive (decoderResponse_legal (mt := Config.MT_RES) rfl _ _) h
  | reserved9 => exact inv_of_answer hs hactive ⟨.error .illegalOp, rfl, trivial⟩ h
  | reservedAB op => exact inv_of_answer hs hactive ⟨.error .illegalOp, rfl, trivial⟩ h
  | reservedCF op => exact inv_of_answer hs hactive ⟨.error .illegalOp, rfl, trivial⟩ h
  | tileMessage H B rest => exact inv_of_decodeFlow hs hactive h
  | activationMessage H B rest => exact inv_of_decodeFlow hs hactive h
  | resultMessage H B rest => exact inv_of_decodeFlow hs hactive h

theorem inv_of_execItem {item : Item} (h : execItem item s = .next t) : t.Inv := by
  cases item with
  | command c => exact inv_of_exec hs hactive h
  | wire buf =>
    rw [Laws.execItem_wire] at h
    exact inv_of_decodeFlow hs hactive h

end

theorem inv_of_runUnit {s t : State} (hs : s.Inv) {u : Nat} (hu : unitExists u = true) (h : runUnit u s = .next t) :
    t.Inv := by
  unfold runUnit at h
  split at h
  next => cases h; exact hs
  next item hitem =>
    have hdropped : State.Inv { s.dropCurrent u with active := u } := inv_dropCurrent hs u
    exact inv_of_execItem hdropped hu h

/-- A move of an existing unit keeps the invariant. -/
theorem inv_of_makeMove {s t : State} (hs : s.Inv) {m : Move} (hm : unitExists m.unit = true)
    (h : makeMove m s = .next t) : t.Inv := by
  cases m with
  | issue u item => cases h; exact inv_present hs hm item
  | run u => exact inv_of_runUnit hs hm h
  | reset u => cases h; exact inv_dropCurrent hs u

/-- Settles O54: a step does nothing or makes a move of an existing unit, and such a move keeps the invariant. -/
theorem stepKeepsTheRecordLegal : Obligations.StepKeepsTheRecordLegal := by
  unfold Obligations.StepKeepsTheRecordLegal
  intro s s' hs h
  unfold step at h
  split at h
  next => cases h; exact hs
  next m rest hnext =>
    split at h
    next hm =>
      have hrest : State.Inv { s with schedule := rest } := hs
      exact inv_of_makeMove hrest hm h
    next => cases h

/-! ## What FRAME answers -/

/-- Settles O10: FRAME's guard is the two limits, and the bytes of a frame are envelope, header and body. -/
theorem frameIsEnvelopeHeaderBody : Obligations.FrameIsEnvelopeHeaderBody := by
  unfold Obligations.FrameIsEnvelopeHeaderBody
  refine ⟨fun _ => decodeCommand_of_op_one, fun mt header body s => ?_⟩
  split
  next hover => exact exec_frame_of_not_fits (f := ⟨mt, header, body⟩) (not_fits_iff.2 hover) s
  next hwithin => exact exec_frame_of_fits (not_not.1 fun hover => hwithin (not_fits_iff.1 hover)) s

/-- Settles O11: the two lengths are read back from the envelope, the two parts lie where the lengths put them. -/
theorem frameOutputReadsBack : Obligations.FrameOutputReadsBack := by
  unfold Obligations.FrameOutputReadsBack
  intro f s hheader hbody
  have hfits : f.Fits := ⟨hheader, hbody⟩
  obtain ⟨hH, hB⟩ := declaredLengths_frameBytes hfits []
  rw [List.append_nil] at hH hB
  refine ⟨frameBytes f, exec_frame_of_fits hfits s, Laws.frameBytes_length f, rfl, rfl, hH, hB, ?header, ?body⟩
  case header => simp [frameBytes, slice]
  case body =>
    rw [slice, List.take_of_length_le (by simp)]
    exact List.drop_left' (by simp)

/-- Settles O12: FRAME is past its guard, and the encoders' payload past theirs. -/
theorem overlongLengthsAreRefused : Obligations.OverlongLengthsAreRefused := by
  unfold Obligations.OverlongLengthsAreRefused
  refine ⟨rfl, rfl, fun f s hover => exec_frame_of_not_fits (not_fits_iff.2 hover) s, fun m s hover => ?_⟩
  have hpayload : ¬ m.payload.length ≤ Config.BLEN_MAX := Nat.not_le.2 hover
  rw [Laws.exec_encodeInstr, if_neg hpayload]

/-! ## What DEFRAME answers -/

/-- Settles O13: DEFRAME's checks and slices, with the declared lengths written out. -/
theorem deframeFollowsItsFourSteps : Obligations.DeframeFollowsItsFourSteps := by
  unfold Obligations.DeframeFollowsItsFourSteps
  exact ⟨fun _ => decodeCommand_of_op_two, fun buf _ => exec_deframe_iff.2 (Laws.deframeResponse_eq buf)⟩

/-- Settles O14: of DEFRAME's answers, only one comes with IncompleteFrame. -/
theorem deframeChecksLengthThenVersion : Obligations.DeframeChecksLengthThenVersion := by
  unfold Obligations.DeframeChecksLengthThenVersion
  refine fun buf s => ⟨fun hl => exec_deframe_iff.2 (deframeResponse_of_short hl),
    fun hl hv => exec_deframe_iff.2 (deframeResponse_of_other_version hl hv), fun h => ?_⟩
  have hincomplete := exec_deframe_iff.1 h
  obtain ⟨-, h'⟩ | ⟨-, -, h'⟩ | ⟨hl, hv, h'⟩ | ⟨f, extra, -, -, h'⟩ := deframeResponse_answers buf <;>
    rw [hincomplete] at h' <;> cases h'
  exact ⟨hl, hv⟩

/-- Settles O16: a buffer of version 1 that holds all it declares begins with the bytes of a frame, as does the part of
it that is declared, and DEFRAME delivers that frame of both. -/
theorem trailingBytesAreIgnored : Obligations.TrailingBytesAreIgnored := by
  unfold Obligations.TrailingBytesAreIgnored
  refine ⟨fun buf s hl hv hlonger => ?cut, fun f g s hf _ => ?two⟩
  case cut =>
    change 8 + declaredHeader buf + declaredBody buf < buf.length at hlonger
    show _ = exec (.deframe (buf.take (8 + declaredHeader buf + declaredBody buf))) s
    obtain ⟨f, extra, hfits, rfl⟩ := eq_frameBytes_append hl hv hlonger.le
    obtain ⟨hH, hB⟩ := declaredLengths_frameBytes hfits extra
    have hcut : (frameBytes f ++ extra).take (8 + f.header.length + f.body.length) = frameBytes f :=
      take_consumedBytes f extra
    rw [hH, hB, hcut, exec_deframe_frameBytes_append hfits, exec_deframe_frameBytes hfits]
  case two => exact exec_deframe_frameBytes_append hf (frameBytes g) s

/-- Settles O17: DEFRAME of an envelope compares the bytes after it with the sum of its two lengths. -/
theorem declaredLengthsAddExactly : Obligations.DeclaredLengthsAddExactly := by
  unfold Obligations.DeclaredLengthsAddExactly
  intro mt H B rest s
  refine ⟨fun hfewer => ?incomplete, fun henough => ?complete⟩
  case incomplete => rw [exec_deframe_iff, Laws.deframeResponse_envelope, if_pos hfewer]
  case complete =>
    rw [exec_deframe_iff, Laws.deframeResponse_envelope, if_neg (Nat.not_lt.2 henough)]
    simp [slice]

/-- Settles O18: DEFRAME delivers the frame a buffer begins with, and FRAME emits the bytes of that frame. -/
theorem frameAndDeframeUndoEachOther : Obligations.FrameAndDeframeUndoEachOther := by
  unfold Obligations.FrameAndDeframeUndoEachOther
  refine ⟨fun f s hheader hbody => ?deframeOfFrame, fun buf f s h => ?frameOfDeframe⟩
  case deframeOfFrame =>
    have hfits : f.Fits := ⟨hheader, hbody⟩
    exact ⟨frameBytes f, exec_frame_of_fits hfits s, exec_deframe_frameBytes hfits s⟩
  case frameOfDeframe =>
    obtain ⟨hfits, extra, rfl⟩ := deframeResponse_eq_frame_iff.1 (exec_deframe_iff.1 h)
    rw [take_consumedBytes]
    exact exec_frame_of_fits hfits s

end Sys2Proof.Proofs.FrameCodec
end

section
/-! PROOFS. What families 42_tile.md, 43_activation.md and 44_result.md share: the frame of a message, and that it is
what the encode commands emit (30_encoding.md R67 to R71). -/

namespace Sys2Proof.Proofs.MessageFrame

open Machine

/-- The header of a message: scalars, then tag bytes of the payload (30_encoding.md R68 to R71). -/
def messageHeader (m : Message) : Bytes :=
  m.scalars ++ tag m.tagLength m.payload

theorem messageHeader_length (m : Message) : (messageHeader m).length = m.headerLength := by
  rw [messageHeader, List.length_append]
  cases m with
  | tile t => exact congrArg₂ (· + ·) (Laws.tileScalars_length t) (Laws.tag_length (k := 8) t.payload (by decide))
  | activation a =>
    exact congrArg₂ (· + ·) (Laws.actScalars_length a) (Laws.tag_length (k := 16) a.payload (by decide))
  | result r => exact congrArg₂ (· + ·) (Laws.resScalars_length r) (Laws.tag_length (k := 4) r.payload (by decide))

theorem headerLength_le (m : Message) : m.headerLength ≤ Config.HLEN_MAX := by
  cases m <;>
    simp [Message.headerLength, Config.TILE_HDR_LEN, Config.ACT_HDR_LEN, Config.RES_HDR_LEN, Config.HLEN_MAX]

/-- The frame of a message, which has its payload as body. -/
def messageFrame (m : Message) : Frame :=
  ⟨m.mtype, messageHeader m, m.payload⟩

/-- The header is always short enough, so the payload alone decides (41_frame.md R102). -/
theorem messageFrame_fits {m : Message} (h : m.payload.length ≤ 4294967295) : (messageFrame m).Fits :=
  ⟨(messageHeader_length m).trans_le (headerLength_le m), h⟩

/-- The bytes of a message's frame, with the header's length written out (30_encoding.md R67). -/
theorem frameBytes_messageFrame (m : Message) :
    frameBytes (messageFrame m) = [0x01, m.mtype] ++ be 16 (BitVec.ofNat 16 m.headerLength)
      ++ be 32 (BitVec.ofNat 32 m.payload.length) ++ m.scalars ++ tag m.tagLength m.payload ++ m.payload := by
  have parts : frameBytes (messageFrame m) = [0x01, m.mtype] ++ be 16 (BitVec.ofNat 16 (messageHeader m).length)
      ++ be 32 (BitVec.ofNat 32 m.payload.length) ++ messageHeader m ++ m.payload := rfl
  rw [parts, messageHeader_length, messageHeader, ← List.append_assoc _ m.scalars]

/-- An encode command emits the message's frame, or nothing if the payload is too long for it. -/
theorem exec_encodeInstr_eq (m : Message) (s : State) :
    exec (encodeInstr m) s = .next (s.respond (if m.payload.length > 4294967295 then .error .lengthOverflow
      else .ok (.out (frameBytes (messageFrame m))))) := by
  rw [Laws.exec_encodeInstr, ← ite_not]
  simp only [Nat.not_le]
  rfl

theorem exec_encodeInstr_of_fits {m : Message} (h : m.payload.length ≤ 4294967295) (s : State) :
    exec (encodeInstr m) s = .next (s.respond (.ok (.out (frameBytes (messageFrame m))))) := by
  rw [exec_encodeInstr_eq, if_neg (Nat.not_lt.2 h)]

/-- DEFRAME of what an encode command emits delivers the message's header and payload (41_frame.md R111). -/
theorem exec_deframe_messageFrame {m : Message} (h : m.payload.length ≤ 4294967295) (s : State) :
    exec (.deframe (frameBytes (messageFrame m))) s = .next (s.respond (.ok (.frame (messageFrame m)))) :=
  FrameCodec.exec_deframe_frameBytes (messageFrame_fits h) s

end Sys2Proof.Proofs.MessageFrame
end

section
/-! PROOFS. Family 42_tile.md: TILE.ENC and TILE.DEC, byte for byte, and the round trip through DEFRAME (R121 to
R124). -/

namespace Sys2Proof.Proofs.Tile

open Machine MessageFrame

theorem decodeCommand_of_op_three {c : Command} (h : c.op = 0x3) :
    decodeCommand c = .tileEnc ⟨c.modelId, c.tileId, c.tileKind, c.layerIdx, c.expertIdx, c.payload⟩ := by
  unfold decodeCommand
  rw [h]
  rfl

theorem decodeCommand_of_op_four {c : Command} (h : c.op = 0x4) : decodeCommand c = .tileDec c.header c.body := by
  unfold decodeCommand
  rw [h]
  rfl

/-- The bytes of a Tile message's frame: type 0, header length 34, the first 8 checksum bytes as tag (42_tile.md
R121). -/
theorem frameBytes_tile (m : TileMessage) :
    frameBytes (messageFrame (.tile m)) = [0x01, 0x00] ++ [0x00, 0x22] ++ be 32 (BitVec.ofNat 32 m.payload.length)
      ++ (be 64 m.modelId ++ be 64 m.tileId ++ be 32 m.tileKind ++ be 32 m.layerIdx ++ be 16 m.expertIdx)
      ++ (ck16 m.payload).toList.take 8 ++ m.payload := by
  have hlength : be 16 (BitVec.ofNat 16 34) = [0x00, 0x22] := by decide
  rw [← hlength]
  exact frameBytes_messageFrame (.tile m)

/-- TILE.DEC as a command gives the response TILE.DEC answers for its operands (42_tile.md R123). -/
theorem exec_tileDec {header body : Bytes} {r : Response} (h : tileDecResponse header body = some r) (s : State) :
    exec (.tileDec header body) s = .next (s.respond r) := by
  show answer (tileDecResponse header body) s = _
  rw [h, Laws.answer_some]

/-- Settles O19: TILE.ENC emits the bytes of the message's frame, which are written out. -/
theorem tileEncBuildsItsFrame : Obligations.TileEncBuildsItsFrame := by
  unfold Obligations.TileEncBuildsItsFrame
  refine ⟨fun _ => decodeCommand_of_op_three, fun m s => ?_⟩
  rw [← frameBytes_tile]
  exact exec_encodeInstr_eq (.tile m) s

/-- Settles O22: TILE.DEC compares the header's length with 34, then reads five slices of it. -/
theorem tileDecUnpacksItsHeader : Obligations.TileDecUnpacksItsHeader := by
  unfold Obligations.TileDecUnpacksItsHeader
  refine ⟨fun _ => decodeCommand_of_op_four, fun header body s => exec_tileDec ?_ s⟩
  rw [Laws.tileDecResponse_eq, ite_not]

/-- Settles O26: DEFRAME undoes the framing, and TILE.DEC reads the scalars back whatever the 8 tag bytes are. -/
theorem tileRoundTrip : Obligations.TileRoundTrip := by
  unfold Obligations.TileRoundTrip
  intro m s hpayload
  have htag : (tag 8 m.payload).length = 8 := Laws.tag_length m.payload (by decide)
  exact ⟨frameBytes (messageFrame (.tile m)), messageHeader (.tile m),
    exec_encodeInstr_of_fits (m := .tile m) hpayload s, exec_deframe_messageFrame (m := .tile m) hpayload s,
    messageHeader_length (.tile m), exec_tileDec (Laws.tileDecResponse_scalars m htag) s⟩

end Sys2Proof.Proofs.Tile
end

section
/-! PROOFS. Family 43_activation.md: ACT.ENC and ACT.DEC, byte for byte, and the round trip through DEFRAME (R131 to
R135). -/

namespace Sys2Proof.Proofs.Activation

open Machine MessageFrame

theorem decodeCommand_of_op_five {c : Command} (h : c.op = 0x5) :
    decodeCommand c = .actEnc ⟨c.sessionId, c.stepId, c.fromTileId, c.toTileId, c.payload⟩ := by
  unfold decodeCommand
  rw [h]
  rfl

theorem decodeCommand_of_op_six {c : Command} (h : c.op = 0x6) : decodeCommand c = .actDec c.header c.body := by
  unfold decodeCommand
  rw [h]
  rfl

/-- The bytes of an Activation message's frame: type 1, header length 48, all 16 checksum bytes as tag
(43_activation.md R131). -/
theorem frameBytes_activation (m : ActivationMessage) :
    frameBytes (messageFrame (.activation m)) = [0x01, 0x01] ++ [0x00, 0x30]
      ++ be 32 (BitVec.ofNat 32 m.payload.length)
      ++ (be 64 m.sessionId ++ be 64 m.stepId ++ be 64 m.fromTileId ++ be 64 m.toTileId)
      ++ (ck16 m.payload).toList ++ m.payload := by
  have hlength : be 16 (BitVec.ofNat 16 48) = [0x00, 0x30] := by decide
  rw [← hlength, ← Encoding.tag_sixteen]
  exact frameBytes_messageFrame (.activation m)

/-- ACT.DEC as a command gives the response ACT.DEC answers for its operands (43_activation.md R133). -/
theorem exec_actDec {header body : Bytes} {r : Response} (h : actDecResponse header body = some r) (s : State) :
    exec (.actDec header body) s = .next (s.respond r) := by
  show answer (actDecResponse header body) s = _
  rw [h, Laws.answer_some]

/-- Settles O20: ACT.ENC emits the bytes of the message's frame, which are written out. -/
theorem actEncBuildsItsFrame : Obligations.ActEncBuildsItsFrame := by
  unfold Obligations.ActEncBuildsItsFrame
  refine ⟨fun _ => decodeCommand_of_op_five, fun m s => ?_⟩
  rw [← frameBytes_activation]
  exact exec_encodeInstr_eq (.activation m) s

/-- Settles O23: ACT.DEC compares the header's length with 48, then reads four slices of it. -/
theorem actDecUnpacksItsHeader : Obligations.ActDecUnpacksItsHeader := by
  unfold Obligations.ActDecUnpacksItsHeader
  refine ⟨fun _ => decodeCommand_of_op_six, fun header body s => exec_actDec ?_ s⟩
  rw [Laws.actDecResponse_eq, ite_not]

/-- Settles O27: DEFRAME undoes the framing, and ACT.DEC reads the scalars back whatever the 16 tag bytes are. -/
theorem activationRoundTrip : Obligations.ActivationRoundTrip := by
  unfold Obligations.ActivationRoundTrip
  intro m s hpayload
  have htag : (tag 16 m.payload).length = 16 := Laws.tag_length m.payload (by decide)
  exact ⟨frameBytes (messageFrame (.activation m)), messageHeader (.activation m),
    exec_encodeInstr_of_fits (m := .activation m) hpayload s,
    exec_deframe_messageFrame (m := .activation m) hpayload s,
    messageHeader_length (.activation m), exec_actDec (Laws.actDecResponse_scalars m htag) s⟩

end Sys2Proof.Proofs.Activation
end

section
/-! PROOFS. Family 44_result.md: RES.ENC and RES.DEC, byte for byte, and the round trip through DEFRAME (R141 to
R146). -/

namespace Sys2Proof.Proofs.Result

open Machine MessageFrame

theorem decodeCommand_of_op_seven {c : Command} (h : c.op = 0x7) :
    decodeCommand c = .resEnc ⟨c.sessionId, c.stepId, c.tileId, c.cyclesHint, c.voteGroup, c.payload⟩ := by
  unfold decodeCommand
  rw [h]
  rfl

theorem decodeCommand_of_op_eight {c : Command} (h : c.op = 0x8) : decodeCommand c = .resDec c.header c.body := by
  unfold decodeCommand
  rw [h]
  rfl

/-- An 8-bit scalar is the byte it is read from; past the end of the sequence both sides are 0. -/
theorem fromBe_eight_slice (b : Bytes) (i : Nat) : fromBe 8 (slice b i (i + 1)) = b.getD i 0 := by
  rw [slice, Nat.add_sub_cancel_left]
  by_cases h : i < b.length
  · rw [List.take_one_drop_eq_of_lt_length h, ← Laws.be_eight, Laws.fromBe_be_eight, List.getD_eq_getElem b 0 h]
    rfl
  · rw [List.drop_eq_nil_of_le (Nat.le_of_not_lt h), List.getD_eq_default b 0 (Nat.le_of_not_lt h)]
    rfl

/-- The bytes of a Result message's frame: type 2, header length 33, vote_group as one byte, the first 4 checksum bytes
as tag (44_result.md R141). -/
theorem frameBytes_result (m : ResultMessage) :
    frameBytes (messageFrame (.result m)) = [0x01, 0x02] ++ [0x00, 0x21] ++ be 32 (BitVec.ofNat 32 m.payload.length)
      ++ (be 64 m.sessionId ++ be 64 m.stepId ++ be 64 m.tileId ++ be 32 m.cyclesHint ++ [m.voteGroup])
      ++ (ck16 m.payload).toList.take 4 ++ m.payload := by
  have hlength : be 16 (BitVec.ofNat 16 33) = [0x00, 0x21] := by decide
  rw [← hlength, ← Laws.be_eight m.voteGroup]
  exact frameBytes_messageFrame (.result m)

/-- RES.DEC as a command gives the response RES.DEC answers for its operands (44_result.md R144). -/
theorem exec_resDec {header body : Bytes} {r : Response} (h : resDecResponse header body = some r) (s : State) :
    exec (.resDec header body) s = .next (s.respond r) := by
  show answer (resDecResponse header body) s = _
  rw [h, Laws.answer_some]

/-- Settles O21: RES.ENC emits the bytes of the message's frame, which are written out. -/
theorem resEncBuildsItsFrame : Obligations.ResEncBuildsItsFrame := by
  unfold Obligations.ResEncBuildsItsFrame
  refine ⟨fun _ => decodeCommand_of_op_seven, fun m s => ?_⟩
  rw [← frameBytes_result]
  exact exec_encodeInstr_eq (.result m) s

/-- Settles O24: RES.DEC compares the header's length with 33, then reads four slices of it and the byte at 28. -/
theorem resDecUnpacksItsHeader : Obligations.ResDecUnpacksItsHeader := by
  unfold Obligations.ResDecUnpacksItsHeader
  refine ⟨fun _ => decodeCommand_of_op_eight, fun header body s => exec_resDec ?_ s⟩
  rw [Laws.resDecResponse_eq, ite_not, fromBe_eight_slice header 28]

/-- Settles O28: DEFRAME undoes the framing, and RES.DEC reads the scalars back whatever the 4 tag bytes are. -/
theorem resultRoundTrip : Obligations.ResultRoundTrip := by
  unfold Obligations.ResultRoundTrip
  intro m s hpayload
  have htag : (tag 4 m.payload).length = 4 := Laws.tag_length m.payload (by decide)
  exact ⟨frameBytes (messageFrame (.result m)), messageHeader (.result m),
    exec_encodeInstr_of_fits (m := .result m) hpayload s, exec_deframe_messageFrame (m := .result m) hpayload s,
    messageHeader_length (.result m), exec_resDec (Laws.resDecResponse_scalars m htag) s⟩

end Sys2Proof.Proofs.Result
end

section
/-! PROOFS. Family 45_flows_and_properties.md: ENCODE, DECODE and the host's tag check (R150 to R160). -/

namespace Sys2Proof.Proofs.Flows

open Machine MessageFrame

/-! ## The parts of a message's header -/

/-- A message's type tells where its header keeps the tag: after the scalars (30_encoding.md R68 to R71). -/
theorem tagPlace_mtype (m : Message) : tagPlace m.mtype = some (m.scalars.length, m.tagLength) := by
  cases m with
  | tile t => rw [Message.scalars, Laws.tileScalars_length]; rfl
  | activation a => rw [Message.scalars, Laws.actScalars_length]; rfl
  | result r => rw [Message.scalars, Laws.resScalars_length]; rfl

theorem tagLength_le (m : Message) : m.tagLength ≤ 16 := by
  cases m with
  | tile _ => exact (by decide : Config.TILE_TAG_LEN ≤ 16)
  | activation _ => exact (by decide : Config.ACT_TAG_LEN ≤ 16)
  | result _ => exact (by decide : Config.RES_TAG_LEN ≤ 16)

theorem messageTag_length (m : Message) : (tag m.tagLength m.payload).length = m.tagLength :=
  Laws.tag_length m.payload (tagLength_le m)

theorem scalars_length_add_tagLength (m : Message) : m.scalars.length + m.tagLength = m.headerLength := by
  rw [← messageHeader_length, messageHeader, List.length_append, messageTag_length]

/-- Messages of one kind have scalars and tags of the same lengths. -/
theorem lengths_eq_of_mtype_eq {m m' : Message} (h : m'.mtype = m.mtype) :
    m'.scalars.length = m.scalars.length ∧ m'.tagLength = m.tagLength := by
  have hplace := tagPlace_mtype m'
  rw [h, tagPlace_mtype m, Option.some.injEq, Prod.mk.injEq] at hplace
  obtain ⟨hscalars, htag⟩ := hplace
  exact ⟨hscalars.symm, htag.symm⟩

/-! ## What the commands of a flow answered -/

/-- The response a command gave is the one its meaning ended with. -/
theorem eq_some_of_answer {x : Option Response} {s : State} {r : Response}
    (h : answer x s = .next (s.respond r)) : x = some r := by
  obtain ⟨y, hx, hy⟩ := Laws.answer_eq_next h
  rw [hx, Laws.respond_inj hy]

/-- FRAME emits nothing but the bytes of a frame that fits (41_frame.md R101, R102). -/
theorem eq_frameBytes_of_exec_frame {f : Frame} {out : Bytes} {s : State}
    (h : exec (.frame f) s = .next (s.respond (.ok (.out out)))) : f.Fits ∧ out = frameBytes f := by
  by_cases hf : f.Fits
  · rw [FrameCodec.exec_frame_of_fits hf] at h
    cases Laws.next_respond_inj h
    exact ⟨hf, rfl⟩
  · rw [FrameCodec.exec_frame_of_not_fits hf] at h
    cases Laws.next_respond_inj h

/-- ENCODE emits nothing but the bytes of the message's frame, and only if that fits (R150). -/
theorem eq_frameBytes_of_exec_encodeInstr {m : Message} {out : Bytes} {s : State}
    (h : exec (encodeInstr m) s = .next (s.respond (.ok (.out out)))) :
    m.payload.length ≤ 4294967295 ∧ out = frameBytes (messageFrame m) := by
  by_cases hm : m.payload.length ≤ 4294967295
  · rw [exec_encodeInstr_of_fits hm] at h
    cases Laws.next_respond_inj h
    exact ⟨hm, rfl⟩
  · rw [exec_encodeInstr_eq, if_pos (Nat.lt_of_not_le hm)] at h
    cases Laws.next_respond_inj h

/-- The decode command the dispatch selects answers what DECODE takes from it (R151). -/
theorem exec_decoder {mt : U8} {decoder : Bytes → Bytes → Instr} (h : decoderFor mt = some decoder) :
    ∃ d, decoderResponse mt = some d ∧
      ∀ (header body : Bytes) (s : State), exec (decoder header body) s = answer (d header body) s := by
  unfold decoderFor at h
  unfold decoderResponse
  split at h
  next htile =>
    cases h
    exact ⟨tileDecResponse, if_pos htile, fun _ _ _ => rfl⟩
  next htile =>
    rw [if_neg htile]
    split at h
    next hact =>
      cases h
      exact ⟨actDecResponse, if_pos hact, fun _ _ _ => rfl⟩
    next hact =>
      rw [if_neg hact]
      split at h
      next hres =>
        cases h
        exact ⟨resDecResponse, if_pos hres, fun _ _ _ => rfl⟩
      next => cases h

/-! ## DECODE of a whole frame -/

/-- DECODE of a frame's bytes is what its type's decoder answers for the parts (R151). -/
theorem execItem_frameBytes_of_decoder {f : Frame} (hf : f.Fits) {d : Bytes → Bytes → Option Response} {r : Response}
    (hd : decoderResponse f.mtype = some d) (hr : d f.header f.body = some r) (s : State) :
    execItem (.wire (frameBytes f)) s =
      .next (((s.respond (.ok (.frame f))).respond r).conclude (.response r)) := by
  have hframe := Laws.deframeResponse_frameBytes hf []
  rw [List.append_nil] at hframe
  rw [Laws.execItem_wire, Laws.decodeFlow_of_decoder hframe hd hr]

/-- DECODE of a message's scalars and payload, framed with any tag of its kind's length, is the message: no decoder
reads the tag (R153). -/
theorem execItem_of_anyTag (m : Message) {anyTag : Bytes} (ht : anyTag.length = m.tagLength)
    (hpayload : m.payload.length ≤ 4294967295) (s : State) :
    execItem (.wire (frameBytes ⟨m.mtype, m.scalars ++ anyTag, m.payload⟩)) s =
      .next (((s.respond (.ok (.frame ⟨m.mtype, m.scalars ++ anyTag, m.payload⟩))).respond
        (.ok (.message m))).conclude (.response (.ok (.message m)))) := by
  have hheader : (m.scalars ++ anyTag).length ≤ Config.HLEN_MAX := by
    rw [List.length_append, ht, scalars_length_add_tagLength]
    exact headerLength_le m
  obtain ⟨d, hd, hr⟩ := Laws.decoderResponse_scalars m ht
  exact execItem_frameBytes_of_decoder (f := ⟨m.mtype, m.scalars ++ anyTag, m.payload⟩) ⟨hheader, hpayload⟩ hd hr s

/-- Settles O29: ENCODE emits the message's frame, whose tag is one of the tags DECODE does not read. -/
theorem decodeOfEncodeReturnsTheMessage : Obligations.DecodeOfEncodeReturnsTheMessage := by
  unfold Obligations.DecodeOfEncodeReturnsTheMessage
  intro m hpayload
  exact ⟨frameBytes (messageFrame m), fun s => exec_encodeInstr_of_fits hpayload s,
    fun s => ⟨messageFrame m, execItem_of_anyTag m (messageTag_length m) hpayload s⟩⟩

/-- The frame of a message with its envelope kept and all else replaced is the frame of the other message, if that is
of the same kind and size. -/
theorem envelope_append_eq_frameBytes_of_lengths_eq {m m' : Message} {newTag : Bytes} (hkind : m'.mtype = m.mtype)
    (hlength : m'.payload.length = m.payload.length) (ht : newTag.length = m.tagLength) :
    (frameBytes (messageFrame m)).take 8 ++ m'.scalars ++ newTag ++ m'.payload =
      frameBytes ⟨m'.mtype, m'.scalars ++ newTag, m'.payload⟩ := by
  have henvelope : (frameBytes (messageFrame m)).take 8 =
      envelope m.mtype (BitVec.ofNat 16 (messageHeader m).length) (BitVec.ofNat 32 m.payload.length) := rfl
  have hheader : (m'.scalars ++ newTag).length = (messageHeader m).length := by
    rw [messageHeader, List.length_append, List.length_append, messageTag_length, ht,
      (lengths_eq_of_mtype_eq hkind).1]
  rw [henvelope, frameBytes, hheader, hlength, hkind, List.append_assoc _ m'.scalars]

/-- Settles O31: the changed bytes are the frame of the other message with a tag DECODE does not read. -/
theorem corruptionIsNotDetected : Obligations.CorruptionIsNotDetected := by
  unfold Obligations.CorruptionIsNotDetected
  intro m m' out newTag s hencode hkind hlength ht
  obtain ⟨hpayload, rfl⟩ := eq_frameBytes_of_exec_encodeInstr hencode
  rw [envelope_append_eq_frameBytes_of_lengths_eq hkind hlength ht]
  exact ⟨_, execItem_of_anyTag m' (ht.trans (lengths_eq_of_mtype_eq hkind).2.symm) (hlength.trans_le hpayload) s⟩

/-- Settles O39: DEFRAME and the selected command answered what the flow asks of them. -/
theorem decodeIsDeframeThenTheSelectedDecoder : Obligations.DecodeIsDeframeThenTheSelectedDecoder := by
  unfold Obligations.DecodeIsDeframeThenTheSelectedDecoder
  intro buf f decoder s r hdeframe hselect hdecode
  obtain ⟨d, hd, hexec⟩ := exec_decoder hselect
  have hr : d f.header f.body = some r := eq_some_of_answer ((hexec f.header f.body _).symm.trans hdecode)
  rw [Laws.execItem_wire]
  exact Laws.decodeFlow_of_decoder (FrameCodec.exec_deframe_iff.1 hdeframe) hd hr s

/-! ## DECODE that ends without a message -/

/-- The dispatch selects no decoder for a type from 3 on (R152). -/
theorem decoderResponse_of_three_le {mt : U8} (h : 3 ≤ mt.toNat) : decoderResponse mt = none := by
  have hne : ∀ t : U8, t.toNat < 3 → mt ≠ t := by
    rintro t ht rfl
    omega
  rw [decoderResponse, if_neg (hne _ (by decide)), if_neg (hne _ (by decide)), if_neg (hne _ (by decide))]

/-- Settles O38: the dispatch finds no decoder, or DEFRAME's error ends the flow before it. -/
theorem decodeWithoutACodecEndsAtDeframe : Obligations.DecodeWithoutACodecEndsAtDeframe := by
  unfold Obligations.DecodeWithoutACodecEndsAtDeframe
  simp only [Laws.execItem_wire]
  refine ⟨fun f trailing s hf htype => ?unassigned, fun buf s hl => ?short, fun buf s hl hv => ?version,
    fun buf s hl hv hfewer => ?incomplete⟩
  case unassigned =>
    exact Laws.decodeFlow_of_unassigned (Laws.deframeResponse_frameBytes hf trailing)
      (decoderResponse_of_three_le htype) s
  case short => exact Laws.decodeFlow_of_error (FrameCodec.deframeResponse_of_short hl) s
  case version => exact Laws.decodeFlow_of_error (FrameCodec.deframeResponse_of_other_version hl hv) s
  case incomplete => exact Laws.decodeFlow_of_error (FrameCodec.deframeResponse_of_incomplete hl hv hfewer) s

theorem tileDecResponse_of_other_length {header : Bytes} (h : header.length ≠ 34) (body : Bytes) :
    tileDecResponse header body = some (.error (.badHeaderSize 34)) := by
  rw [Laws.tileDecResponse_eq, if_neg h]

theorem actDecResponse_of_other_length {header : Bytes} (h : header.length ≠ 48) (body : Bytes) :
    actDecResponse header body = some (.error (.badHeaderSize 48)) := by
  rw [Laws.actDecResponse_eq, if_neg h]

theorem resDecResponse_of_other_length {header : Bytes} (h : header.length ≠ 33) (body : Bytes) :
    resDecResponse header body = some (.error (.badHeaderSize 33)) := by
  rw [Laws.resDecResponse_eq, if_neg h]

theorem mtype_cases_of_lt_three {t : U8} (h : t.toNat < 3) :
    t = Config.MT_TILE ∨ t = Config.MT_ACT ∨ t = Config.MT_RES := by
  simp only [Config.MT_TILE, Config.MT_ACT, Config.MT_RES]
  bv_omega

/-- Every assigned type has a decoder, which refuses every header but those of one length, and a message has a header
of that length only if it is of the type (R159). -/
theorem decoderResponse_refuses {t : U8} (h : t.toNat < 3) :
    ∃ (d : Bytes → Bytes → Option Response) (n : U16), decoderResponse t = some d ∧
      (∀ m : Message, n.toNat = m.headerLength → t = m.mtype) ∧
      ∀ header body : Bytes, header.length ≠ n.toNat → d header body = some (.error (.badHeaderSize n)) := by
  obtain rfl | rfl | rfl := mtype_cases_of_lt_three h
  · refine ⟨tileDecResponse, 34, rfl, ?_, fun _ body hl => tileDecResponse_of_other_length hl body⟩
    intro m hn
    cases m with
    | tile _ => rfl
    | activation _ | result _ => cases hn
  · refine ⟨actDecResponse, 48, rfl, ?_, fun _ body hl => actDecResponse_of_other_length hl body⟩
    intro m hn
    cases m with
    | activation _ => rfl
    | tile _ | result _ => cases hn
  · refine ⟨resDecResponse, 33, rfl, ?_, fun _ body hl => resDecResponse_of_other_length hl body⟩
    intro m hn
    cases m with
    | result _ => rfl
    | tile _ | activation _ => cases hn

/-- Settles O30: with the type byte changed DECODE selects a decoder of another length than the header's. -/
theorem wrongHeaderLengthIsRefused : Obligations.WrongHeaderLengthIsRefused := by
  unfold Obligations.WrongHeaderLengthIsRefused
  refine ⟨fun header body s => ⟨fun hl => ?tile, fun hl => ?activation, fun hl => ?result⟩,
    fun m out t s hencode ht hne => ?retyped⟩
  case tile => exact Tile.exec_tileDec (tileDecResponse_of_other_length hl body) s
  case activation => exact Activation.exec_actDec (actDecResponse_of_other_length hl body) s
  case result => exact Result.exec_resDec (resDecResponse_of_other_length hl body) s
  case retyped =>
    obtain ⟨hpayload, rfl⟩ := eq_frameBytes_of_exec_encodeInstr hencode
    obtain ⟨d, n, hd, htype, hrefuse⟩ := decoderResponse_refuses ht
    have hn : n.toNat ≠ m.headerLength := fun h => hne (htype m h)
    have hr : d (messageHeader m) m.payload = some (.error (.badHeaderSize n)) :=
      hrefuse _ _ (by rw [messageHeader_length]; exact hn.symm)
    have hset : (frameBytes (messageFrame m)).set 1 t = frameBytes { messageFrame m with mtype := t } := rfl
    have hfits : Frame.Fits { messageFrame m with mtype := t } := messageFrame_fits hpayload
    rw [hset]
    exact ⟨_, n, hn, execItem_frameBytes_of_decoder hfits hd hr s⟩

/-- The first eight bytes alone declare the lengths (20_memory.md R42). -/
theorem declaredLengths_append {a : Bytes} (h : 8 ≤ a.length) (b : Bytes) :
    declaredHeader (a ++ b) = declaredHeader a ∧ declaredBody (a ++ b) = declaredBody a :=
  ⟨congrArg fromBeNat (Laws.slice_append_left (by omega)), congrArg fromBeNat (Laws.slice_append_left h)⟩

/-- A frame's bytes cut after the envelope: the envelope still declares the frame's lengths (R158). -/
theorem deframeResponse_take_of_lt {f : Frame} (hf : f.Fits) {n : Nat} (hn : 8 ≤ n)
    (hlt : n < (frameBytes f).length) :
    deframeResponse ((frameBytes f).take n) = some (.error .incompleteFrame) := by
  have hlen : ((frameBytes f).take n).length = n := List.length_take_of_le hlt.le
  have hversion : ((frameBytes f).take n).getD 0 0 = 1 := by
    obtain ⟨k, rfl⟩ := Nat.exists_eq_add_of_le' hn
    rfl
  obtain ⟨hH, hB⟩ := FrameCodec.declaredLengths_frameBytes hf []
  obtain ⟨hH', hB'⟩ := declaredLengths_append (hn.trans_eq hlen.symm) ((frameBytes f).drop n)
  rw [List.append_nil] at hH hB
  rw [List.take_append_drop] at hH' hB'
  refine FrameCodec.deframeResponse_of_incomplete (hn.trans_eq hlen.symm) hversion ?_
  rwa [hlen, ← hH', ← hB', hH, hB, ← Laws.frameBytes_length]

/-- Settles O15: a cut before the envelope's end leaves too few bytes for it, one after it fewer than it declares. -/
theorem truncatedFrameIsRefused : Obligations.TruncatedFrameIsRefused := by
  unfold Obligations.TruncatedFrameIsRefused
  intro f out s n hframe hn
  obtain ⟨hf, rfl⟩ := eq_frameBytes_of_exec_frame hframe
  rw [FrameCodec.exec_deframe_iff]
  split
  next hshort => exact FrameCodec.deframeResponse_of_short ((List.length_take_le n _).trans_lt hshort)
  next hlong => exact deframeResponse_take_of_lt hf (Nat.le_of_not_lt hlong) hn

/-! ## The tag -/

/-- The last bytes of an emitted header are the payload's checksum bytes (30_encoding.md R71). -/
theorem slice_tag_messageFrame (m : Message) :
    slice (frameBytes (messageFrame m)) (8 + m.headerLength - m.tagLength) (8 + m.headerLength) =
      tag m.tagLength m.payload := by
  obtain ⟨-, -, -, htag, -⟩ :=
    Encoding.frameBytes_layout m.mtype (scalars := m.scalars) rfl (messageTag_length m) m.payload
  rw [← scalars_length_add_tagLength, ← Nat.add_assoc, Nat.add_sub_cancel]
  exact htag

/-- Settles O32: the tag slice is the tag of the payload, of the length of the kind. -/
theorem tagDependsOnThePayloadAlone : Obligations.TagDependsOnThePayloadAlone := by
  unfold Obligations.TagDependsOnThePayloadAlone
  intro m m' out out' s s' hkind hpayload hencode hencode'
  obtain ⟨-, rfl⟩ := eq_frameBytes_of_exec_encodeInstr hencode
  obtain ⟨-, rfl⟩ := eq_frameBytes_of_exec_encodeInstr hencode'
  obtain ⟨hscalars, htag⟩ := lengths_eq_of_mtype_eq hkind
  have hheader : m'.headerLength = m.headerLength := by
    rw [← scalars_length_add_tagLength, ← scalars_length_add_tagLength, hscalars, htag]
  rw [slice_tag_messageFrame, ← hheader, ← htag, slice_tag_messageFrame, hpayload]

/-- The host's check on a header that ends with its tag compares that slice with the digest's first bytes (R154). -/
theorem hostIntegrityCheck_eq {mt : U8} {off k : Nat} (hplace : tagPlace mt = some (off, k)) {header : Bytes}
    (hl : header.length = off + k) (d : Vector Byte 16) :
    hostIntegrityCheck mt header d = some (decide (slice header off (off + k) = d.toList.take k)) := by
  rw [hostIntegrityCheck, hplace]
  simp only [Laws.memRead_of_le hl.ge, Option.map_some, beq_eq_decide]

/-- The tag an encoder put in a message's header passes the check against the payload's checksum. -/
theorem hostIntegrityCheck_messageHeader (m : Message) :
    hostIntegrityCheck m.mtype (messageHeader m) (ck16 m.payload) = some true := by
  have hslice : slice (messageHeader m) m.scalars.length (m.scalars.length + m.tagLength) =
      tag m.tagLength m.payload := by
    rw [messageHeader, Laws.slice_append_right le_rfl, Nat.sub_self, Nat.add_sub_cancel_left,
      Laws.slice_full (messageTag_length m)]
  have hl : (messageHeader m).length = m.scalars.length + m.tagLength := by
    rw [messageHeader_length, scalars_length_add_tagLength]
  rw [hostIntegrityCheck_eq (tagPlace_mtype m) hl, hslice, tag, decide_eq_true rfl]

/-- Settles O33: the check at the three tag places, and on the header an encoder emitted. -/
theorem hostCanCheckTheTag : Obligations.HostCanCheckTheTag := by
  unfold Obligations.HostCanCheckTheTag
  refine ⟨fun header d => ⟨fun hl => hostIntegrityCheck_eq (off := 26) (k := 8) rfl hl d, fun hl => ?activation,
    fun hl => hostIntegrityCheck_eq (off := 29) (k := 4) rfl hl d⟩, fun m out f d s hencode hdeframe hcksum => ?emitted⟩
  case activation =>
    have hwhole : d.toList.take 16 = d.toList := List.take_of_length_le (by simp)
    rw [← hwhole]
    exact hostIntegrityCheck_eq (off := 32) (k := 16) rfl hl d
  case emitted =>
    obtain ⟨hpayload, rfl⟩ := eq_frameBytes_of_exec_encodeInstr hencode
    rw [exec_deframe_messageFrame hpayload] at hdeframe
    cases Laws.next_respond_inj hdeframe
    rw [Checksum.exec_cksum] at hcksum
    cases Laws.next_respond_inj hcksum
    exact hostIntegrityCheck_messageHeader m

end Sys2Proof.Proofs.Flows
end

section
/-! PROOFS. Family 60_exceptions.md: the status codes (R171, R172, R176), which command ends with which (R173), and the
independence of the units (R188). -/

namespace Sys2Proof.Proofs.Exceptions

open Machine

/-! ## Which command ends with which status -/

section
variable {i : Instr} {s : State} {r : Response} (h : exec i s = .next (s.respond r))
include h

/-- A command that has given a response has given no other. -/
theorem status_of_exec {r' : Response} (h' : exec i s = .next (s.respond r')) : r.status = r'.status :=
  congrArg Response.status (Laws.next_respond_inj (h.symm.trans h'))

/-- Where one check decides between a result and an error, it decides the status. -/
theorem status_of_exec_ite {p : Prop} [Decidable p] {x : Results} {e : Error}
    (h' : exec i s = .next (s.respond (if p then .ok x else .error e))) : r.status = if p then 0 else e.code :=
  (status_of_exec h h').trans (apply_ite Response.status p _ _)

end

/-- FRAME fails exactly when a length does not fit its field (41_frame.md R101). -/
theorem status_of_exec_frame {f : Frame} {s : State} {r : Response} (h : exec (.frame f) s = .next (s.respond r)) :
    r.status = if f.header.length ≤ 65535 ∧ f.body.length ≤ 4294967295 then 0 else 5 := by
  split
  next hfits => exact status_of_exec h (FrameCodec.exec_frame_of_fits hfits s)
  next hnot => exact status_of_exec h (FrameCodec.exec_frame_of_not_fits hnot s)

/-- DEFRAME's three checks, in order, each with its own status (41_frame.md R105). -/
theorem status_of_exec_deframe {buf : Bytes} {s : State} {r : Response}
    (h : exec (.deframe buf) s = .next (s.respond r)) :
    r.status = if buf.length < 8 then 1 else if buf.getD 0 0 ≠ 1 then 2
      else if buf.length < 8 + declaredHeader buf + declaredBody buf then 3 else 0 := by
  rw [status_of_exec h (FrameCodec.exec_deframe_iff.2 (Laws.deframeResponse_eq buf))]
  simp only [apply_ite Response.status]
  rfl

/-- A message encoder fails exactly when the payload does not fit the body field (41_frame.md R102). -/
theorem status_of_exec_encodeInstr {m : Message} {s : State} {r : Response}
    (h : exec (encodeInstr m) s = .next (s.respond r)) :
    r.status = if m.payload.length ≤ 4294967295 then 0 else 5 :=
  status_of_exec_ite h (Laws.exec_encodeInstr m s)

/-- Settles O42: the op selects the instruction, and the checks of its meaning select the status. -/
theorem statusTable : Obligations.StatusTable := by
  unfold Obligations.StatusTable
  intro c s r h
  refine ⟨fun hop => ?cksum, fun hop => ?frame, fun hop => ?deframe, fun hop => ?encoders, fun hop => ?tileDec,
    fun hop => ?actDec, fun hop => ?resDec, fun hop => ?reserved⟩
  case cksum =>
    rw [Checksum.decodeCommand_of_op_zero hop] at h
    exact status_of_exec h (Checksum.exec_cksum c.data s)
  case frame =>
    rw [FrameCodec.decodeCommand_of_op_one hop] at h
    exact status_of_exec_frame h
  case deframe =>
    rw [FrameCodec.decodeCommand_of_op_two hop] at h
    exact status_of_exec_deframe h
  case encoders =>
    obtain hop | hop | hop := hop
    · rw [Tile.decodeCommand_of_op_three hop] at h
      exact status_of_exec_encodeInstr (m := .tile _) h
    · rw [Activation.decodeCommand_of_op_five hop] at h
      exact status_of_exec_encodeInstr (m := .activation _) h
    · rw [Result.decodeCommand_of_op_seven hop] at h
      exact status_of_exec_encodeInstr (m := .result _) h
  case tileDec =>
    rw [Tile.decodeCommand_of_op_four hop] at h
    exact status_of_exec_ite h (Tile.exec_tileDec (Laws.tileDecResponse_eq c.header c.body) s)
  case actDec =>
    rw [Activation.decodeCommand_of_op_six hop] at h
    exact status_of_exec_ite h (Activation.exec_actDec (Laws.actDecResponse_eq c.header c.body) s)
  case resDec =>
    rw [Result.decodeCommand_of_op_eight hop] at h
    exact status_of_exec_ite h (Result.exec_resDec (Laws.resDecResponse_eq c.header c.body) s)
  case reserved => exact status_of_exec h (Encoding.exec_decodeCommand_of_nine_le hop s)

/-! ## The status codes -/

/-- The code leaves open only the length that BadHeaderSize records. -/
theorem eq_or_badHeaderSize_of_code_eq : ∀ {e e' : Error}, e.code = e'.code →
    e = e' ∨ ∃ n n', e = .badHeaderSize n ∧ e' = .badHeaderSize n'
  | .shortFrame, .shortFrame, _ => .inl rfl
  | .versionMismatch, .versionMismatch, _ => .inl rfl
  | .incompleteFrame, .incompleteFrame, _ => .inl rfl
  | .badHeaderSize n, .badHeaderSize n', _ => .inr ⟨n, n', rfl, rfl⟩
  | .lengthOverflow, .lengthOverflow, _ => .inl rfl
  | .illegalOp, .illegalOp, _ => .inl rfl

/-- The codes of errors are 1 to 6. -/
theorem code_ne_zero_and_ne_seven (e : Error) : e.code ≠ 0 ∧ e.code ≠ 7 := by
  cases e <;> simp [Error.code]

/-- Code 4 alone comes with the length the decoder accepts (60_exceptions.md R172). -/
theorem code_eq_four_iff_expected_isSome (e : Error) : e.code = 4 ↔ (Response.error e).expected.isSome = true := by
  cases e <;> simp [Error.code, Response.expected]

/-- Settles O43: status 0 is that of a response with results, and of the six error codes 4 alone has a length. -/
theorem statusCodesTellTheOutcome : Obligations.StatusCodesTellTheOutcome := by
  unfold Obligations.StatusCodesTellTheOutcome
  refine ⟨fun _ _ => eq_or_badHeaderSize_of_code_eq, fun r => ?_⟩
  cases r with
  | ok x => simp [Response.status, Response.results, Response.expected]
  | error e =>
    obtain ⟨hzero, hseven⟩ := code_ne_zero_and_ne_seven e
    exact ⟨hseven, iff_of_false hzero Bool.false_ne_true, code_eq_four_iff_expected_isSome e⟩

/-! ## What an issue does to the unit's items -/

/-- Later items concern a unit's command in progress only if the unit was idle. -/
theorem firstHeld_append (u : Nat) (held later : List (Nat × Item)) :
    firstHeld u (held ++ later) = (firstHeld u held).or (firstHeld u later) := by
  simp only [Laws.firstHeld_eq_head?, Laws.ofUnit_append, List.head?_append]

/-- The oldest item of a unit that had none is among those that came behind. -/
theorem dropFirstHeld_append_of_idle {u : Nat} {held : List (Nat × Item)} (h : firstHeld u held = none)
    (later : List (Nat × Item)) : dropFirstHeld u (held ++ later) = held ++ dropFirstHeld u later := by
  induction held with
  | nil => rfl
  | cons p rest ih =>
    obtain ⟨v, x⟩ := p
    by_cases hv : v = u
    · simp [firstHeld, hv] at h
    · rw [firstHeld, if_neg hv] at h
      rw [List.cons_append, dropFirstHeld, if_neg hv, ih h, List.cons_append]

/-- The port of an idle unit takes the item (60_exceptions.md R188). -/
theorem present_of_idle {s : State} {u : Nat} (h : (s.view u).held = []) (item : Item) :
    s.present u item = { s with held := s.held ++ [(u, item)] } := by
  obtain htaken | ⟨hbusy, -⟩ := Laws.present_cases s u item
  · exact htaken
  · exact absurd ((Laws.heldCount_eq_length u s.held).trans (congrArg List.length h)) hbusy

/-- Running the unit executes the item an idle unit has just taken, and nothing the unit holds is left. -/
theorem runUnit_present_of_idle {s : State} {u : Nat} (h : (s.view u).held = []) (item : Item) :
    runUnit u (s.present u item) = execItem item { s with active := u } := by
  have hidle : firstHeld u s.held = none := (Laws.firstHeld_eq_head? u s.held).trans (congrArg List.head? h)
  have hfirst : firstHeld u (s.held ++ [(u, item)]) = some item := by simp [firstHeld_append, hidle, firstHeld]
  have hdrop : dropFirstHeld u (s.held ++ [(u, item)]) = s.held := by
    simp [dropFirstHeld_append_of_idle hidle, dropFirstHeld]
  simp only [present_of_idle h, runUnit, hfirst, State.dropCurrent, hdrop]

/-- Settles O47: the idle unit takes the item, running it executes it there, and executing an item only records. -/
theorem issueThenRunExecutes : Obligations.IssueThenRunExecutes := by
  unfold Obligations.IssueThenRunExecutes
  intro s u item rest hu hidle
  obtain ⟨rs, os, -, hrec⟩ := UnitState.execItem_records item
  have hrun : makeMove (.run u) (s.present u item) = .next (State.record { s with active := u } rs os) :=
    (runUnit_present_of_idle hidle item).trans (hrec _)
  exact ⟨State.record { s with schedule := rest, active := u } rs os,
    Memory.stepTwice_of_moves (m₁ := .issue u item) (m₂ := .run u) hu hu rfl hrun rest, hrec _, hidle, rfl⟩

/-- Settles O49: the port takes the item behind all others or leaves everything as it was, and neither concerns the
oldest item. -/
theorem busyUnitKeepsItsCommand : Obligations.BusyUnitKeepsItsCommand := by
  unfold Obligations.BusyUnitKeepsItsCommand
  intro s u item current rest hu hsched hcurrent
  have hstep : step s = .next (State.present { s with schedule := rest } u item) :=
    (Laws.step_of_schedule hsched).trans (if_pos hu)
  refine ⟨_, hstep, ?_⟩
  obtain htaken | ⟨-, hrefused⟩ := Laws.present_cases { s with schedule := rest } u item
  · rw [htaken]
    exact ⟨by rw [firstHeld_append, hcurrent, Option.some_or], .inr rfl⟩
  · rw [hrefused]
    exact ⟨hcurrent, .inl rfl⟩

/-! ## The other units -/

/-- Settles O50: the step has made its move, and every move leaves the schedule and the other units as they were. -/
theorem stepLeavesOtherUnitsAlone : Obligations.StepLeavesOtherUnitsAlone := by
  unfold Obligations.StepLeavesOtherUnitsAlone
  intro s s' m rest v hnext hstep hv
  obtain ⟨t, hmove, hsched, hview⟩ := Memory.makeMove_completes m { s with schedule := rest }
  cases hmove.symm.trans (UnitState.makeMove_of_step hnext hstep)
  exact ⟨hsched, hview v hv⟩

end Sys2Proof.Proofs.Exceptions
end

section
/-! PROOFS. Family 70_reset_and_hazards.md: reset (R201, R203), the record of responses (R213, R215), and the completion
of steps and runs (R214). -/

namespace Sys2Proof.Proofs.ResetAndHazards

open Machine

/-! ## The step that executes an item -/

/-- Where the decoder reads an instruction from the item, executing the item is executing that instruction. -/
theorem execItem_of_decodeItem {item : Item} {i : Instr} (h : decodeItem item = .ok i) (s : State) :
    execItem item s = exec i s := by
  cases item with
  | command c => cases h; rfl
  | wire buf =>
    change decodeWire buf = .ok i at h
    simp only [execItem, h]

/-- A step makes the scheduled move of an existing unit. -/
theorem step_of_scheduled_move {s : State} {m : Move} {rest : List Move} (h : s.schedule = m :: rest)
    (hm : unitExists m.unit = true) : step s = makeMove m { s with schedule := rest } :=
  (Laws.step_of_schedule h).trans (if_pos hm)

theorem runUnit_of_firstHeld_some {s : State} {u : Nat} {item : Item} (h : firstHeld u s.held = some item) :
    runUnit u s = execItem item { s.dropCurrent u with active := u } :=
  UnitState.runUnit_of_busy ((Laws.firstHeld_eq_head? u s.held).symm.trans h)

theorem runUnit_of_firstHeld_none {s : State} {u : Nat} (h : firstHeld u s.held = none) : runUnit u s = .next s :=
  UnitState.runUnit_of_idle ((Laws.firstHeld_eq_head? u s.held).symm.trans h)

/-- A scheduled run of an existing unit executes the unit's oldest item, which leaves it. -/
theorem step_of_scheduled_run {s : State} {u : Nat} {item : Item} {rest : List Move} (h : s.schedule = .run u :: rest)
    (hu : unitExists u = true) (hitem : firstHeld u s.held = some item) :
    step s = execItem item { s with schedule := rest, held := dropFirstHeld u s.held, active := u } :=
  (step_of_scheduled_move h hu).trans (runUnit_of_firstHeld_some (s := { s with schedule := rest }) hitem)

theorem step_of_scheduled_run_of_idle {s : State} {u : Nat} {rest : List Move} (h : s.schedule = .run u :: rest)
    (hu : unitExists u = true) (hidle : firstHeld u s.held = none) : step s = .next { s with schedule := rest } :=
  (step_of_scheduled_move h hu).trans (runUnit_of_firstHeld_none (s := { s with schedule := rest }) hidle)

/-- Settles O44: the step executes the item, as the instruction the decoder reads from it or, for a buffer, as the
DECODE of it, which every buffer goes through. -/
theorem stepRunsTheDecodedInstruction : Obligations.StepRunsTheDecodedInstruction := by
  unfold Obligations.StepRunsTheDecodedInstruction
  refine ⟨?scheduled, ?oldest, fun _ _ _ => step_of_scheduled_run_of_idle, fun _ => Laws.step_of_nothing⟩
  case scheduled =>
    intro s u item rest hsched hu hitem
    have hstep := step_of_scheduled_run hsched hu hitem
    refine ⟨fun i hi => hstep.trans (execItem_of_decodeItem hi _), fun buf _ hwire _ => ?_⟩
    rw [hstep, hwire, Laws.execItem_wire]
  case oldest =>
    intro s u item rest hsched hheld hu
    have hstep := Laws.step_of_held hsched hheld hu
    refine ⟨fun i hi => hstep.trans (execItem_of_decodeItem hi _), fun buf _ hwire _ => ?_⟩
    rw [hstep, hwire, Laws.execItem_wire]

/-- The step after an item is placed executes it on unit 0, and the placing leaves no trace (log 19). -/
theorem step_withFetchItem (s : State) (item : Item) :
    step (s.withFetchItem item) = execItem item { s with active := 0 } :=
  step_of_scheduled_run (Laws.withFetchItem_schedule s item) rfl rfl

theorem decodeTableWord_eq_some_iff {nbits w : Nat} {i : Instr} :
    decodeTableWord nbits w = some i ↔ decodeItem (tableItem nbits w) = .ok i := by
  unfold decodeTableWord
  cases decodeItem (tableItem nbits w) <;> simp

/-- Settles O45: placing a word is placing its item, and the decoder reads the instruction from that item. -/
theorem tableWordRunsNext : Obligations.TableWordRunsNext := by
  unfold Obligations.TableWordRunsNext
  intro s nbits w i hi
  exact (step_withFetchItem s _).trans (execItem_of_decodeItem (decodeTableWord_eq_some_iff.1 hi) _)

/-- Settles O46: what executing an item records is chosen before the state, so also before any history. -/
theorem firstCommandAfterResetAnswersAsAlways : Obligations.FirstCommandAfterResetAnswersAsAlways := by
  unfold Obligations.FirstCommandAfterResetAnswersAsAlways
  intro item
  obtain ⟨rs, os, hne, hrec⟩ := UnitState.execItem_records item
  have hstep (s : State) : step (s.withFetchItem item) = .next (State.record { s with active := 0 } rs os) :=
    (step_withFetchItem s item).trans (hrec _)
  exact ⟨rs, os, hne, hstep State.reset, hstep⟩

/-! ## Reset of a unit -/

theorem firstHeld_of_idle {s : State} {u : Nat} (h : (s.view u).held = []) : firstHeld u s.held = none :=
  (Laws.firstHeld_eq_head? u s.held).trans (congrArg List.head? h)

/-- An idle unit that takes an item and then drops its command in progress leaves the state as it was. -/
theorem dropCurrent_present_of_idle {s : State} {u : Nat} (h : (s.view u).held = []) (item : Item) :
    (s.present u item).dropCurrent u = s := by
  have hdrop : dropFirstHeld u (s.held ++ [(u, item)]) = s.held := by
    simp [Exceptions.dropFirstHeld_append_of_idle (firstHeld_of_idle h), dropFirstHeld]
  simp only [Exceptions.present_of_idle h, State.dropCurrent, hdrop]

theorem dropCurrent_of_idle {s : State} {u : Nat} (h : (s.view u).held = []) : s.dropCurrent u = s := by
  have hdrop : dropFirstHeld u s.held = s.held := by
    simpa [dropFirstHeld] using Exceptions.dropFirstHeld_append_of_idle (firstHeld_of_idle h) []
  simp only [State.dropCurrent, hdrop]

/-- Settles O48: a reset is the drop of the unit's oldest item, of which an idle unit has none but the one it was just
handed. -/
theorem resetDropsTheCommandInProgress : Obligations.ResetDropsTheCommandInProgress := by
  unfold Obligations.ResetDropsTheCommandInProgress
  have hreset (s : State) {u : Nat} (rest : List Move) (hu : unitExists u = true) :
      step { s with schedule := .reset u :: rest } = .next (State.dropCurrent { s with schedule := rest } u) :=
    step_of_scheduled_move (m := .reset u) rfl hu
  refine ⟨?issued, ?idle, ?any⟩
  case issued =>
    intro s u item rest hu hidle
    have hdropped : makeMove (.reset u) (s.present u item) = .next s :=
      congrArg Host.Outcome.next (dropCurrent_present_of_idle hidle item)
    exact Memory.stepTwice_of_moves (m₁ := .issue u item) (m₂ := .reset u) hu hu rfl hdropped rest
  case idle =>
    intro s u rest hu hidle
    rw [hreset s rest hu, dropCurrent_of_idle (s := { s with schedule := rest }) hidle]
  case any =>
    intro s u rest hu
    exact ⟨_, hreset s rest hu, rfl, Laws.dropCurrent_view_self s u, fun v hv => Laws.dropCurrent_view_other s hv⟩

/-! ## What an item gets -/

/-- The responses an item gets are those it gives on the reset state. -/
theorem responsesOf_eq {item : Item} {rs : List Response} {os : List DecodeOutcome}
    (h : execItem item State.reset = .next (State.reset.record rs os)) : responsesOf item = rs := by
  unfold responsesOf
  rw [h]
  simp [State.reset, Function.comp_def]

/-- In every state an item gets the same responses (10_state.md R27). -/
theorem execItem_records_responsesOf (item : Item) :
    ∃ os, ∀ s, execItem item s = .next (s.record (responsesOf item) os) := by
  obtain ⟨rs, os, -, hrec⟩ := UnitState.execItem_records item
  exact ⟨os, by rwa [responsesOf_eq (hrec State.reset)]⟩

/-- A command gets one response, that of its instruction in every state. -/
theorem responsesOf_command (c : Command) :
    ∃ r, responsesOf (.command c) = [r] ∧ ∀ s : State, exec (decodeCommand c) s = .next (s.respond r) := by
  obtain ⟨r, hr⟩ := UnitState.exec_decodeCommand_responds c
  have hreset : execItem (.command c) State.reset = .next (State.reset.record [r] []) := by
    rw [← Laws.respond_eq_record]
    exact hr State.reset
  exact ⟨r, responsesOf_eq hreset, hr⟩

/-- A DECODE that completes has recorded DEFRAME's response, and behind it that of the message decoder if the dispatch
selected one (45_flows_and_properties.md R151). -/
theorem decodeFlow_records_one_or_two {buf : Bytes} {s t : State} (h : decodeFlow buf s = .next t) :
    ∃ rs os, t = s.record rs os ∧ (rs.length = 1 ∨ rs.length = 2) := by
  unfold decodeFlow at h
  split at h
  next => cases h
  next f _ =>
    split at h
    next => cases h; exact ⟨[_], [_], Laws.conclude_respond_eq_record s _ _, .inl rfl⟩
    next =>
      split at h
      next => cases h
      next => cases h; exact ⟨[_, _], [_], Laws.conclude_respond_respond_eq_record s _ _ _, .inr rfl⟩
  next => cases h; exact ⟨[_], [_], Laws.conclude_respond_eq_record s _ _, .inl rfl⟩

theorem responsesOf_wire_length (buf : Bytes) :
    (responsesOf (.wire buf)).length = 1 ∨ (responsesOf (.wire buf)).length = 2 := by
  obtain ⟨os, hrec⟩ := execItem_records_responsesOf (.wire buf)
  have hflow := (Laws.execItem_wire buf State.reset).symm.trans (hrec State.reset)
  obtain ⟨rs, os', heq, hlen⟩ := decodeFlow_records_one_or_two hflow
  rwa [responsesOf_eq ((hrec State.reset).trans (congrArg Host.Outcome.next heq))]

/-! ## What a move can do to the record and to the items in flight -/

/-- The effect of a move from `s` to `t` on the run as a whole: the records grow, at most one item comes in, and an item
that comes in is the move's own unit's. -/
structure MoveEffect (m : Move) (s t : State) : Prop where
  responses_prefix : s.responses <+: t.responses
  outcomes_prefix  : s.outcomes <+: t.outcomes
  held_length_le   : t.held.length ≤ s.held.length + 1
  mem_held         : ∀ p ∈ t.held, p ∈ s.held ∨ p.1 = m.unit

theorem moveEffect_refl (m : Move) (s : State) : MoveEffect m s s :=
  ⟨List.prefix_rfl, List.prefix_rfl, Nat.le_succ _, fun _ => .inl⟩

theorem moveEffect_present (s : State) (u : Nat) (item : Item) :
    MoveEffect (.issue u item) s (s.present u item) := by
  obtain htaken | ⟨-, hrefused⟩ := Laws.present_cases s u item
  · rw [htaken]
    refine ⟨List.prefix_rfl, List.prefix_rfl, by simp, fun p hp => ?_⟩
    obtain hp | hp := List.mem_append.1 hp
    · exact .inl hp
    · exact .inr (congrArg Prod.fst (List.mem_singleton.1 hp))
  · rw [hrefused]
    exact moveEffect_refl _ s

/-- The oldest item of a unit leaves, and what is recorded joins the record. -/
theorem moveEffect_dropFirstHeld {m : Move} {s t : State} {u : Nat} (hresponses : s.responses <+: t.responses)
    (houtcomes : s.outcomes <+: t.outcomes) (hheld : t.held = dropFirstHeld u s.held) : MoveEffect m s t where
  responses_prefix := hresponses
  outcomes_prefix := houtcomes
  held_length_le := by
    rw [hheld]
    exact Nat.le_succ_of_le (Laws.dropFirstHeld_length_le u s.held)
  mem_held p hp := .inl (Laws.dropFirstHeld_subset (hheld ▸ hp))

theorem moveEffect_of_makeMove {m : Move} {s t : State} (h : makeMove m s = .next t) : MoveEffect m s t := by
  cases m with
  | issue u item => cases h; exact moveEffect_present s u item
  | run u =>
    change runUnit u s = .next t at h
    cases hi : firstHeld u s.held with
    | none =>
      rw [runUnit_of_firstHeld_none hi] at h
      cases h
      exact moveEffect_refl _ s
    | some item =>
      obtain ⟨rs, os, -, hrun⟩ := Memory.runUnit_records item
      rw [hrun s u hi] at h
      cases h
      exact moveEffect_dropFirstHeld (List.prefix_append _ _) (List.prefix_append _ _) rfl
  | reset u => cases h; exact moveEffect_dropFirstHeld List.prefix_rfl List.prefix_rfl rfl

/-! ## One step -/

theorem step_of_nextMove_none {s : State} (h : s.nextMove = none) : step s = .next s := by
  unfold step
  rw [h]

/-- Settles O56: a step does nothing or makes a move, and a move's responses and outcomes join the record behind the
others. -/
theorem recordsOnlyGrow : Obligations.RecordsOnlyGrow := by
  unfold Obligations.RecordsOnlyGrow
  intro s s' hstep
  cases hnext : s.nextMove with
  | none =>
    rw [step_of_nextMove_none hnext] at hstep
    cases hstep
    exact ⟨List.prefix_rfl, List.prefix_rfl⟩
  | some p =>
    obtain ⟨m, rest⟩ := p
    have heffect := moveEffect_of_makeMove (UnitState.makeMove_of_step hnext hstep)
    exact ⟨heffect.responses_prefix, heffect.outcomes_prefix⟩

/-- A step whose next move is of an existing unit makes that move, which completes. -/
theorem step_completes {s : State} {m : Move} {rest : List Move} (h : s.nextMove = some (m, rest))
    (hm : unitExists m.unit = true) :
    ∃ t, step s = .next t ∧ t.schedule = rest ∧ MoveEffect m { s with schedule := rest } t := by
  obtain ⟨t, hmove, hsched, -⟩ := Memory.makeMove_completes m { s with schedule := rest }
  exact ⟨t, (Laws.step_of_nextMove h).trans ((if_pos hm).trans hmove), hsched, moveEffect_of_makeMove hmove⟩

/-- Settles O57: with a next move, the step stops or completes as the move's unit exists or not; with none it does
nothing. -/
theorem stepStopsOnlyForAnAbsentUnit : Obligations.StepStopsOnlyForAnAbsentUnit := by
  unfold Obligations.StepStopsOnlyForAnAbsentUnit
  intro s
  cases hnext : s.nextMove with
  | none => simp [step_of_nextMove_none hnext]
  | some p =>
    obtain ⟨m, rest⟩ := p
    by_cases hm : unitExists m.unit = true
    · obtain ⟨t, hstep, -⟩ := step_completes hnext hm
      have hlt : m.unit < Config.nUnits := (Laws.unitExists_iff m.unit).1 hm
      simp [hstep, hlt]
    · have hstep : step s = .fault .noSuchUnit := (Laws.step_of_nextMove hnext).trans (if_neg hm)
      have hle : Config.nUnits ≤ m.unit := Nat.not_lt.1 (mt (Laws.unitExists_iff m.unit).2 hm)
      simp [hstep, hle]

/-! ## Runs end -/

/-- With no move scheduled, the oldest item of an existing unit leaves, and gets its responses under its unit. -/
theorem step_answers_oldest {s : State} {u : Nat} {item : Item} {rest : List (Nat × Item)} (hsched : s.schedule = [])
    (hheld : s.held = (u, item) :: rest) (hu : unitExists u = true) :
    ∃ t, step s = .next t ∧ t.schedule = [] ∧ t.held = rest ∧
      t.responses = s.responses ++ (responsesOf item).map fun r => (u, r) := by
  obtain ⟨os, hrec⟩ := execItem_records_responsesOf item
  exact ⟨_, (Laws.step_of_held hsched hheld hu).trans (hrec _), hsched, rfl, rfl⟩

/-- The units the schedule names and those that hold items exist. -/
def UnitsExist (s : State) : Prop :=
  (∀ m ∈ s.schedule, unitExists m.unit = true) ∧ ∀ p ∈ s.held, unitExists p.1 = true

/-- How many steps are left at most: a scheduled move may bring in an item, which takes a step of its own. -/
def stepsLeft (s : State) : Nat :=
  2 * s.schedule.length + s.held.length

/-- Where the units exist, a step completes, they exist after it, and unless nothing was left to do there is less of
it. -/
theorem step_decreases_stepsLeft {s : State} (hs : UnitsExist s) :
    ∃ t, step s = .next t ∧ UnitsExist t ∧ stepsLeft t ≤ stepsLeft s - 1 := by
  obtain ⟨hmoves, hitems⟩ := hs
  cases hsched : s.schedule with
  | cons m rest =>
    rw [hsched] at hmoves
    obtain ⟨hm, hrest⟩ := List.forall_mem_cons.1 hmoves
    obtain ⟨t, hstep, hsched', heffect⟩ := step_completes (Laws.nextMove_of_schedule hsched) hm
    refine ⟨t, hstep, ⟨hsched' ▸ hrest, fun p hp => ?_⟩, ?_⟩
    · obtain hold | hnew := heffect.mem_held p hp
      · exact hitems p hold
      · rw [hnew]
        exact hm
    · have hlen : t.held.length ≤ s.held.length + 1 := heffect.held_length_le
      simp only [stepsLeft, hsched, hsched', List.length_cons]
      omega
  | nil =>
    cases hheld : s.held with
    | cons p rest =>
      obtain ⟨u, item⟩ := p
      rw [hheld] at hitems
      obtain ⟨hu, hrest⟩ := List.forall_mem_cons.1 hitems
      obtain ⟨t, hstep, hsched', hheld', -⟩ := step_answers_oldest hsched hheld hu
      refine ⟨t, hstep, ⟨hsched'.trans hsched.symm ▸ hmoves, hheld' ▸ hrest⟩, ?_⟩
      simp [stepsLeft, hsched, hheld, hsched', hheld']
    | nil => exact ⟨s, Laws.step_of_nothing hsched hheld, ⟨hmoves, hitems⟩, by simp [stepsLeft, hsched, hheld]⟩

/-- Where the units exist, a run of as many steps as are left completes with nothing left to do. -/
theorem run_of_stepsLeft_le (n : Nat) {s : State} (hs : UnitsExist s) (hn : stepsLeft s ≤ n) :
    ∃ t : State, Sys2Proof.core.run n s = .next t ∧ t.schedule = [] ∧ t.held = [] := by
  induction n generalizing s with
  | zero =>
    unfold stepsLeft at hn
    exact ⟨s, rfl, List.length_eq_zero_iff.1 (by omega), List.length_eq_zero_iff.1 (by omega)⟩
  | succ n ih =>
    obtain ⟨t, hstep, ht, hless⟩ := step_decreases_stepsLeft hs
    rw [Laws.run_succ n hstep]
    exact ih ht (by omega)

/-- Settles O58: every step leaves fewer steps to make, until none is left. -/
theorem everyRunEndsWithNothingInFlight : Obligations.EveryRunEndsWithNothingInFlight := by
  unfold Obligations.EveryRunEndsWithNothingInFlight
  exact fun s hmoves hitems n hn => run_of_stepsLeft_le n ⟨hmoves, hitems⟩ hn

/-! ## What the outstanding items get -/

/-- With no move scheduled, a step for each outstanding item executes them in order, and each gets its responses. -/
theorem run_outstanding {s : State} (hsched : s.schedule = []) (hitems : ∀ p ∈ s.held, unitExists p.1 = true) :
    ∃ t : State, Sys2Proof.core.run s.held.length s = .next t ∧ t.schedule = [] ∧ t.held = [] ∧
      t.responses = s.responses ++ s.held.flatMap (fun p => (responsesOf p.2).map fun r => (p.1, r)) := by
  induction hheld : s.held generalizing s with
  | nil => exact ⟨s, rfl, hsched, hheld, by simp⟩
  | cons p rest ih =>
    obtain ⟨u, item⟩ := p
    rw [hheld] at hitems
    obtain ⟨hu, hrest⟩ := List.forall_mem_cons.1 hitems
    obtain ⟨a, hstep, hasched, haheld, haresponses⟩ := step_answers_oldest hsched hheld hu
    obtain ⟨t, hrun, hsched', hheld', hresponses⟩ := ih hasched (haheld ▸ hrest) haheld
    refine ⟨t, (Laws.run_succ rest.length hstep).trans hrun, hsched', hheld', ?_⟩
    simp [hresponses, haresponses]

/-- Settles O59: the items are executed in order, a command gets its one response and a buffer those of its DECODE. -/
theorem everyOutstandingCommandGetsItsOneResponse : Obligations.EveryOutstandingCommandGetsItsOneResponse := by
  unfold Obligations.EveryOutstandingCommandGetsItsOneResponse
  exact ⟨fun _ => run_outstanding, responsesOf_command, responsesOf_wire_length⟩

end Sys2Proof.Proofs.ResetAndHazards
end
